-- ==== Sys2Proof/Word.lean ====
section
/-! DEFINITION. The word types: bus words, bytes, and IEEE 754 values of the two formats of
00_scope.md R12. Only the types and their plainest facts stand here; the arithmetic is in
Machine/Float.lean. -/

namespace Sys2Proof

/-- A 32-bit bus word (20_memory.md R80, R89). Bit 0 is the least significant bit (00_scope.md R10). -/
abbrev Word := BitVec 32

/-- A byte lane of a word (20_memory.md R87). -/
abbrev Byte := BitVec 8

/-- A binary interchange format of IEEE 754: `mb` fraction bits and `eb` exponent bits (R12). -/
structure Fmt where
  mb : Nat
  eb : Nat
  deriving DecidableEq, Repr

/-- binary32 (R12). -/
abbrev Fmt.b32 : Fmt := ⟨23, 8⟩

/-- binary64 (R12). -/
abbrev Fmt.b64 : Fmt := ⟨52, 11⟩

/-- The magnitude field (exponent and fraction bits, read as one number) of an infinity. The
magnitude fields below it are the finite values in increasing order; those above it are NaNs. -/
abbrev Fmt.infMag (f : Fmt) : Nat := (2 ^ f.eb - 1) * 2 ^ f.mb

/-- The exponent of the least subnormal: every finite value of the format is a multiple of
`2 ^ qmin` (-149 for binary32, -1074 for binary64). -/
def Fmt.qmin (f : Fmt) : Int := 3 - 2 ^ (f.eb - 1) - (f.mb + 1)

/-- A value of format `f`: a NaN, or a sign and a magnitude field up to that of infinity. A NaN
carries no sign and no payload, because no rule branches on either (R13; log entry 4). -/
inductive Flt (f : Fmt) where
  | nan
  | num (neg : Bool) (mag : Fin (f.infMag + 1))
  deriving DecidableEq, Repr, Inhabited

/-- A binary32 value. -/
abbrev F32 := Flt Fmt.b32

/-- A binary64 value. -/
abbrev F64 := Flt Fmt.b64

/-- A finite binary32 constant: a sign and a magnitude field below that of infinity. -/
structure FiniteF32 where
  neg : Bool
  mag : Fin 0x7F800000
  deriving DecidableEq, Repr, Inhabited

/-- A complex number as a pair (re, im) of floats of one format (R17). -/
structure Cplx (f : Fmt) where
  re : Flt f
  im : Flt f
  deriving DecidableEq, Repr, Inhabited

end Sys2Proof
end

