-- ==== Sys2Proof/Syntax.lean ====
section
/-! DEFINITION. The instructions: the twelve commands of 30_encoding.md R115, one constructor per row
of opcode_table.json. Operands are the fields as unsigned integers (R114); the float operand of
`init`, `an.setwarp`, `an.setspeed` and `resp.*` is register ARG0 and stands in no field. -/

namespace Sys2Proof

/-- A command (30_encoding.md R115). -/
inductive Instr where
  /-- `nop`: no operation (46_control.md R320). -/
  | nop
  /-- `init NCH`: set rate and channel count, initialise all DSP state (46_control.md R321). -/
  | init (nch : Nat)
  /-- `process N`: run the filter chain over N samples (44_channel.md R251). -/
  | process (n : Nat)
  /-- `an.write C, N`: feed N samples of channel C to the analyser (45_analyser.md R281). -/
  | anWrite (c n : Nat)
  /-- `an.skip N`: advance the analyser's write position (45_analyser.md R284). -/
  | anSkip (n : Nat)
  /-- `an.setlen N`: set the transform length (45_analyser.md R298). -/
  | anSetlen (n : Nat)
  /-- `an.setwarp`: set the warp factor from ARG0 (45_analyser.md R300). -/
  | anSetwarp
  /-- `an.setspeed`: set the time constant from ARG0 (45_analyser.md R301). -/
  | anSetspeed
  /-- `an.clrpeak`: clear the peak trace (45_analyser.md R302). -/
  | anClrpeak
  /-- `resp.band I, C`: response of band I of channel C (41_band.md R180). -/
  | respBand (i c : Nat)
  /-- `resp.ls C`: response of the low shelf of channel C (40_shelf.md R151). -/
  | respLs (c : Nat)
  /-- `resp.hs C`: response of the high shelf of channel C (40_shelf.md R152). -/
  | respHs (c : Nat)
  deriving DecidableEq, Repr

/-- One access of the host on the bus (20_memory.md R80, R85): a word read or a word write. -/
inductive BusAccess where
  /-- `MemRead(addr, 4)`. -/
  | read (addr : Word)
  /-- `MemWrite(addr, 4, data)`. -/
  | write (addr data : Word)
  deriving DecidableEq, Repr

end Sys2Proof
end

