-- ==== Sys2Proof/WellFormed.lean ====
section
/-! DEFINITION. Well-formed instructions: each operand fits its field, which is what the assembler of
30_encoding.md R120 checks. In-range but illegal values (`init 3`) are well-formed; executing them
records BAD_OPERAND. -/

namespace Sys2Proof

/-- The operand fits the four bits of SEL (30_encoding.md R110, R112). -/
abbrev FitsSel (v : Nat) : Prop := v < 2 ^ 4

/-- The operand fits the twenty bits of IMM (30_encoding.md R110, R113). -/
abbrev FitsImm (v : Nat) : Prop := v < 2 ^ 20

/-- Every operand of the instruction fits its field (30_encoding.md R120). -/
def Instr.wellFormed : Instr → Bool
  | .nop => true
  | .init nch => decide (FitsSel nch)
  | .process n => decide (FitsImm n)
  | .anWrite c n => decide (FitsSel c) && decide (FitsImm n)
  | .anSkip n => decide (FitsImm n)
  | .anSetlen n => decide (FitsImm n)
  | .anSetwarp => true
  | .anSetspeed => true
  | .anClrpeak => true
  | .respBand i c => decide (FitsSel i) && decide (FitsImm c)
  | .respLs c => decide (FitsImm c)
  | .respHs c => decide (FitsImm c)

end Sys2Proof
end

