-- ==== Sys2Proof/Decode.lean ====
section
/-! DEFINITION. The command decoder of 30_encoding.md R123, total on every 32-bit word, and after it
the encoder of R120. Both use the field positions of R110 and the opcode map of R115. -/

namespace Sys2Proof

/-- OPC = w[31:24] (30_encoding.md R111). -/
def Word.opc (w : Word) : Nat := w.toNat / 2 ^ 24 % 2 ^ 8

/-- SEL = w[23:20], unsigned (30_encoding.md R112). -/
def Word.sel (w : Word) : Nat := w.toNat / 2 ^ 20 % 2 ^ 4

/-- IMM = w[19:0], unsigned (30_encoding.md R113). -/
def Word.imm (w : Word) : Nat := w.toNat % 2 ^ 20

/-- Why a word is no command: both raise ILLEGAL_CMD (30_encoding.md R116, R117). -/
inductive Reject where
  /-- OPC is not a value of R115 (R117). -/
  | undefinedOpcode
  /-- A field R115 marks 0 is not zero (R116). -/
  | reservedField
  deriving DecidableEq, Repr

/-- The instruction `i` if the reserved fields of its row are zero (30_encoding.md R116). -/
def reserved (zero : Bool) (i : Instr) : Except Reject Instr :=
  if zero then .ok i else .error .reservedField

/-- The command a word written to CMD encodes (30_encoding.md R115, R123). -/
def decode (w : Word) : Except Reject Instr :=
  match w.opc with
  | 0x00 => reserved (w.sel == 0 && w.imm == 0) .nop
  | 0x01 => reserved (w.imm == 0) (.init w.sel)
  | 0x10 => reserved (w.sel == 0) (.process w.imm)
  | 0x20 => .ok (.anWrite w.sel w.imm)
  | 0x21 => reserved (w.sel == 0) (.anSkip w.imm)
  | 0x22 => reserved (w.sel == 0) (.anSetlen w.imm)
  | 0x23 => reserved (w.sel == 0 && w.imm == 0) .anSetwarp
  | 0x24 => reserved (w.sel == 0 && w.imm == 0) .anSetspeed
  | 0x25 => reserved (w.sel == 0 && w.imm == 0) .anClrpeak
  | 0x30 => .ok (.respBand w.sel w.imm)
  | 0x31 => reserved (w.sel == 0) (.respLs w.imm)
  | 0x32 => reserved (w.sel == 0) (.respHs w.imm)
  | _ => .error .undefinedOpcode

/-- The word with the three fields of 30_encoding.md R110. -/
def packFields (opc sel imm : Nat) : Word := BitVec.ofNat 32 (opc * 2 ^ 24 + sel * 2 ^ 20 + imm)

/-- The word of a command (30_encoding.md R120). -/
def encode : Instr → Word
  | .nop => packFields 0x00 0 0
  | .init nch => packFields 0x01 nch 0
  | .process n => packFields 0x10 0 n
  | .anWrite c n => packFields 0x20 c n
  | .anSkip n => packFields 0x21 0 n
  | .anSetlen n => packFields 0x22 0 n
  | .anSetwarp => packFields 0x23 0 0
  | .anSetspeed => packFields 0x24 0 0
  | .anClrpeak => packFields 0x25 0 0
  | .respBand i c => packFields 0x30 i c
  | .respLs c => packFields 0x31 0 c
  | .respHs c => packFields 0x32 0 c

/-- The match and mask columns of 30_encoding.md R115: the row of `i` selects `w` when
`w &&& mask = match`. -/
def Instr.matchMask : Instr → Word × Word
  | .nop => (0x00000000, 0xFFFFFFFF)
  | .init _ => (0x01000000, 0xFF0FFFFF)
  | .process _ => (0x10000000, 0xFFF00000)
  | .anWrite _ _ => (0x20000000, 0xFF000000)
  | .anSkip _ => (0x21000000, 0xFFF00000)
  | .anSetlen _ => (0x22000000, 0xFFF00000)
  | .anSetwarp => (0x23000000, 0xFFFFFFFF)
  | .anSetspeed => (0x24000000, 0xFFFFFFFF)
  | .anClrpeak => (0x25000000, 0xFFFFFFFF)
  | .respBand _ _ => (0x30000000, 0xFF000000)
  | .respLs _ => (0x31000000, 0xFFF00000)
  | .respHs _ => (0x32000000, 0xFFF00000)

/-- The decoder on a word of the opcode table: the one word of the command, bit 0 least significant
(30_encoding.md R118: every command is exactly one word). -/
def decodeTableWord (nbits w : Nat) : Option Instr :=
  if nbits ≤ 32 ∧ w < 2 ^ 32 then (decode (BitVec.ofNat 32 w)).toOption else none

end Sys2Proof
end

