-- ==== Sys2Proof/Machine/Float.lean ====
section
/-! DEFINITION. IEEE 754 arithmetic on the two formats of 00_scope.md R12: every operation computes
the exact result on integers and rounds once, to nearest, ties to even. Nothing is fused and nothing
is flushed. Comparisons, clamp, min and max are those of R14 to R16; complex operations those of R17. -/

namespace Sys2Proof

namespace Flt

variable {f g : Fmt}

/-- The value with sign `neg` and magnitude field `m`; a field beyond infinity's is infinity. -/
def ofMag (neg : Bool) (m : Nat) : Flt f :=
  .num neg ⟨min m f.infMag, Nat.lt_succ_of_le (Nat.min_le_right _ _)⟩

/-- Zero with the given sign. -/
def zero (neg : Bool) : Flt f := ofMag neg 0

/-- Infinity with the given sign. -/
def inf (neg : Bool) : Flt f := ofMag neg f.infMag

/-- `isnan(v)` of R14. -/
def isNan : Flt f → Bool
  | .nan => true
  | .num _ _ => false

/-- True of an infinity. -/
def isInf : Flt f → Bool
  | .nan => false
  | .num _ m => m.val == f.infMag

/-- `isfinite(v)` of R14: neither NaN nor an infinity. -/
def isFinite : Flt f → Bool
  | .nan => false
  | .num _ m => m.val != f.infMag

/-- True of +0 and of -0. -/
def isZero : Flt f → Bool
  | .nan => false
  | .num _ m => m.val == 0

/-- The sign bit (a NaN has none, R13). -/
def sign : Flt f → Bool
  | .nan => false
  | .num s _ => s

/-- `|v|` of R14: clears the sign bit. -/
def abs : Flt f → Flt f
  | .nan => .nan
  | .num _ m => .num false m

/-- Negation: flips the sign bit. -/
def neg : Flt f → Flt f
  | .nan => .nan
  | .num s m => .num (!s) m

/-- A number that orders the values that are not NaN as IEEE 754 does, +0 and -0 being equal. -/
def key : Flt f → Int
  | .nan => 0
  | .num true m => -(m.val : Int)
  | .num false m => m.val

/-- `a < b` of R14: false when an operand is a NaN. -/
def lt (a b : Flt f) : Bool := !a.isNan && !b.isNan && decide (a.key < b.key)

/-- `a <= b` of R14. -/
def le (a b : Flt f) : Bool := !a.isNan && !b.isNan && decide (a.key ≤ b.key)

/-- `a > b` of R14. -/
def gt (a b : Flt f) : Bool := b.lt a

/-- `a >= b` of R14. -/
def ge (a b : Flt f) : Bool := b.le a

/-- `a == b` of R14: +0 == -0, and a NaN equals nothing. -/
def eq (a b : Flt f) : Bool := !a.isNan && !b.isNan && decide (a.key = b.key)

/-- The clamp of R15: a NaN gives the lower bound. -/
def clamp (v lo hi : Flt f) : Flt f :=
  if v.isNan then lo
  else if v.lt lo then lo
  else if v.gt hi then hi
  else v

/-- `min(a, b)` of R16. -/
def fmin (a b : Flt f) : Flt f := if a.lt b then a else b

/-- `max(a, b)` of R16. -/
def fmax (a b : Flt f) : Flt f := if a.gt b then a else b

/-- The significand of a finite magnitude field: the value is `sig * 2 ^ expo`. -/
def sig (f : Fmt) (mag : Nat) : Nat :=
  if mag / 2 ^ f.mb = 0 then mag else mag % 2 ^ f.mb + 2 ^ f.mb

/-- The exponent of the unit in the last place of a finite magnitude field. -/
def expo (f : Fmt) (mag : Nat) : Int :=
  if mag / 2 ^ f.mb = 0 then f.qmin else f.qmin + (mag / 2 ^ f.mb : Nat) - 1

/-- The exact value of a finite float (0 for a NaN or an infinity, of which nothing asks it). -/
def toRat : Flt f → Rat
  | .nan => 0
  | .num s m =>
    if m.val = f.infMag then 0
    else (if s then -1 else 1) * (sig f m.val : Rat) * (2 : Rat) ^ (expo f m.val)

/-- `m / 2 ^ k` rounded to an integer, to nearest, ties to even (R12). -/
def rne (m k : Nat) : Nat :=
  let n := m / 2 ^ k
  let r := m % 2 ^ k
  if 2 ^ k < 2 * r ∨ (2 * r = 2 ^ k ∧ n % 2 = 1) then n + 1 else n

/-- The exponent of the unit in the last place that the exact value `m * 2 ^ e` is rounded at. -/
def quantum (f : Fmt) (m : Nat) (e : Int) : Int := max (e + m.log2 - f.mb) f.qmin

/-- The float nearest to `(-1)^neg * m * 2 ^ e`, ties to even, with overflow to infinity (R12). A
zero result has the sign `neg`. -/
def round (neg : Bool) (m : Nat) (e : Int) : Flt f :=
  if m = 0 then zero neg
  else
    let q := quantum f m e
    let n := rne (m * 2 ^ (e - q).toNat) (q - e).toNat
    ofMag neg (n + (q - f.qmin).toNat * 2 ^ f.mb)

/-- The float nearest to `(-1)^neg * (a / b) * 2 ^ e` for `b > 0`: the quotient is taken with enough
bits that its remainder only breaks ties. -/
def ofQuot (neg : Bool) (a b : Nat) (e : Int) : Flt f :=
  let k := b.log2 + f.mb + 5
  let n := a * 2 ^ k
  round neg (2 * (n / b) + (if n % b = 0 then 0 else 1)) (e - k - 1)

/-- The float nearest to an integer (exact below 2^24 in binary32, 30_encoding.md R124). -/
def ofInt (i : Int) : Flt f := round (decide (i < 0)) i.natAbs 0

/-- The float nearest to a natural number. -/
def ofNat (n : Nat) : Flt f := round false n 0

/-- The float nearest to the decimal `a / b` (00_scope.md R9); negative when `neg`. -/
def ofDec (a b : Nat) (neg : Bool := false) : Flt f := ofQuot neg a b 0

/-- The exact signed significand of a finite float, brought to the exponent `e`. -/
def scaled (f : Fmt) (s : Bool) (mag : Nat) (e : Int) : Int :=
  (if s then -1 else 1) * ((sig f mag * 2 ^ (expo f mag - e).toNat : Nat) : Int)

/-- IEEE addition. An exact zero sum is +0 unless both operands are -0. -/
def add (a b : Flt f) : Flt f :=
  match a, b with
  | .num s m, .num t n =>
    if m.val = f.infMag then (if n.val = f.infMag ∧ s ≠ t then .nan else a)
    else if n.val = f.infMag then b
    else
      let e := min (expo f m.val) (expo f n.val)
      let z := scaled f s m.val e + scaled f t n.val e
      if z = 0 then zero (s && t) else round (decide (z < 0)) z.natAbs e
  | _, _ => .nan

/-- IEEE subtraction. -/
def sub (a b : Flt f) : Flt f := a.add b.neg

/-- IEEE multiplication. -/
def mul (a b : Flt f) : Flt f :=
  match a, b with
  | .num s m, .num t n =>
    if m.val = f.infMag ∨ n.val = f.infMag then
      (if m.val = 0 ∨ n.val = 0 then .nan else inf (s ^^ t))
    else round (s ^^ t) (sig f m.val * sig f n.val) (expo f m.val + expo f n.val)
  | _, _ => .nan

/-- IEEE division. -/
def div (a b : Flt f) : Flt f :=
  match a, b with
  | .num s m, .num t n =>
    if m.val = f.infMag then (if n.val = f.infMag then .nan else inf (s ^^ t))
    else if n.val = f.infMag then zero (s ^^ t)
    else if n.val = 0 then (if m.val = 0 then .nan else inf (s ^^ t))
    else ofQuot (s ^^ t) (sig f m.val) (sig f n.val) (expo f m.val - expo f n.val)
  | _, _ => .nan

/-- The integer square root, bit by bit from bit `k - 1` down, of `n`, given the bits `r` found. -/
def isqrtFrom : (k n r : Nat) → Nat
  | 0, _, r => r
  | k + 1, n, r =>
    if (r + 2 ^ k) * (r + 2 ^ k) ≤ n then isqrtFrom k n (r + 2 ^ k) else isqrtFrom k n r

/-- The integer square root (rounded down). -/
def isqrt (n : Nat) : Nat := isqrtFrom (n.log2 / 2 + 1) n 0

/-- The IEEE square root, correctly rounded (R12): -0 gives -0, a negative operand gives a NaN. -/
def sqrt (a : Flt f) : Flt f :=
  match a with
  | .nan => .nan
  | .num s m =>
    if m.val = 0 then a
    else if s then .nan
    else if m.val = f.infMag then a
    else
      let j := 2 * f.mb + 6 + (expo f m.val % 2).toNat
      let n := sig f m.val * 2 ^ j
      let r := isqrt n
      round false (2 * r + (if r * r = n then 0 else 1)) ((expo f m.val - j) / 2 - 1)

/-- Conversion between formats: `to64` is exact, `to32` rounds to nearest, ties to even (R12). -/
def convert (a : Flt f) : Flt g :=
  match a with
  | .nan => .nan
  | .num s m => if m.val = f.infMag then inf s else round s (sig f m.val) (expo f m.val)

/-- The mathematical integer `floor(v)` of a finite value; 0 for a NaN or an infinity, of which no
rule asks it (43_smoother.md R234; log entry 12). -/
def floor (a : Flt f) : Int :=
  match a with
  | .nan => 0
  | .num s m =>
    if m.val = f.infMag then 0
    else
      let e := expo f m.val
      ((if s then -1 else 1) * ((sig f m.val * 2 ^ e.toNat : Nat) : Int)) / 2 ^ (-e).toNat

/-- `v * 2^i`, rounded once (exact in the range 43_smoother.md R234 uses it in). -/
def scaleB (a : Flt f) (i : Int) : Flt f :=
  match a with
  | .nan => .nan
  | .num s m => if m.val = f.infMag then a else round s (sig f m.val) (expo f m.val + i)

/-- The value whose bit pattern, read as a number, is `n` (20_memory.md R87). -/
def ofPattern (n : Nat) : Flt f :=
  let mag := n % 2 ^ (f.mb + f.eb)
  if f.infMag < mag then .nan else ofMag (decide (n / 2 ^ (f.mb + f.eb) % 2 = 1)) mag

/-- The bit pattern, as a number, of a value; a NaN has the pattern `nanPat`. -/
def toPattern (nanPat : Nat) : Flt f → Nat
  | .nan => nanPat
  | .num s m => (if s then 2 ^ (f.mb + f.eb) else 0) + m.val

/-- `to64(v)` of R12: exact widening. -/
def to64 (v : F32) : F64 := v.convert

/-- `to32(v)` of R12: rounds a binary64 to binary32. -/
def to32 (v : F64) : F32 := v.convert

/-- The 32-bit pattern of a binary32 value, `nan` being the pattern drawn for a NaN (R13). -/
def toWord (nan : Word) (v : F32) : Word := BitVec.ofNat 32 (v.toPattern nan.toNat)

end Flt

/-- The binary32 value of a 32-bit pattern: sign in bit 31, exponent in bits 30:23, fraction in bits
22:0 (20_memory.md R87). -/
def F32.ofWord (w : Word) : F32 := Flt.ofPattern w.toNat

/-- The binary64 value of a 64-bit pattern. -/
def F64.ofBits (w : BitVec 64) : F64 := Flt.ofPattern w.toNat

/-- A quiet NaN with the sign and the 22 payload bits of `d` (R13). -/
def quietNan (d : BitVec 23) : Word :=
  d.extractLsb' 22 1 ++ (0x1FF#9 : BitVec 9) ++ d.extractLsb' 0 22

/-- A finite binary32 constant as a value. -/
def FiniteF32.toF32 (c : FiniteF32) : F32 := Flt.ofMag c.neg c.mag.val

namespace Cplx

variable {f : Fmt}

/-- The complex number (0, 0). -/
def zero : Cplx f := ⟨Flt.zero false, Flt.zero false⟩

/-- A real number as a complex one: (r, 0.0). -/
def ofReal (r : Flt f) : Cplx f := ⟨r, Flt.zero false⟩

/-- Complex addition (R17). -/
def add (x y : Cplx f) : Cplx f := ⟨x.re.add y.re, x.im.add y.im⟩

/-- Complex subtraction (R17). -/
def sub (x y : Cplx f) : Cplx f := ⟨x.re.sub y.re, x.im.sub y.im⟩

/-- Complex multiplication (R17). -/
def mul (x y : Cplx f) : Cplx f :=
  ⟨(x.re.mul y.re).sub (x.im.mul y.im), (x.re.mul y.im).add (x.im.mul y.re)⟩

/-- A real times a complex number (R17). -/
def smul (r : Flt f) (y : Cplx f) : Cplx f := ⟨r.mul y.re, r.mul y.im⟩

/-- Complex division (R17). -/
def div (x y : Cplx f) : Cplx f :=
  let d := (y.re.mul y.re).add (y.im.mul y.im)
  ⟨((x.re.mul y.re).add (x.im.mul y.im)).div d, ((x.im.mul y.re).sub (x.re.mul y.im)).div d⟩

/-- `|x|^2` (R17). -/
def normSq (x : Cplx f) : Flt f := (x.re.mul x.re).add (x.im.mul x.im)

/-- The conjugate (a, -b) (R17). -/
def conj (x : Cplx f) : Cplx f := ⟨x.re, x.im.neg⟩

end Cplx

end Sys2Proof
end

