-- ==== Sys2Proof/Machine/Transform.lean ====
section
/-! DEFINITION. The type of the parameter FFT_R2C: a transform of a practical FFT together with its
error bound and the law that it keeps it (45_analyser.md R289; log entry 6). -/

namespace Sys2Proof

/-- The least magnitude that rounds to infinity: the greatest finite value and half a unit. -/
def overflowBound (f : Fmt) : Rat := (2 ^ (f.mb + 2) - 1 : Rat) * (2 : Rat) ^ (f.qmin + 2 ^ f.eb - 4)

/-- `c` is finite and within `bound` of the exact component `x`. Nothing is asked of a component whose
range of error reaches the overflow threshold, which may come out as an infinity (R12). -/
def Near (bound : Rat) (x : ℝ) (c : F32) : Prop :=
  |x| + bound < overflowBound Fmt.b32 → c.isFinite = true ∧ |(c.toRat : ℝ) - x| ≤ bound

/-- The real part of bin `k` of the exact transform (R289). -/
noncomputable def dftRe (v : List F32) (k : Nat) : ℝ :=
  ∑ n ∈ Finset.range v.length,
    ((v.getD n (Flt.zero false)).toRat : ℝ) * Real.cos (2 * Real.pi * k * n / v.length)

/-- The imaginary part of bin `k` of the exact transform (R289). -/
noncomputable def dftIm (v : List F32) (k : Nat) : ℝ :=
  -∑ n ∈ Finset.range v.length,
    ((v.getD n (Flt.zero false)).toRat : ℝ) * Real.sin (2 * Real.pi * k * n / v.length)

/-- Each component of bins 0..L/2 is within the bound of the exact one, for every finite vector. -/
def WithinBound (run : List F32 → Nat → Cplx Fmt.b32) (bound : List F32 → Rat) : Prop :=
  ∀ (v : List F32) (k : Nat), (∀ x ∈ v, x.isFinite = true) → k ≤ v.length / 2 →
    Near (bound v) (dftRe v k) (run v k).re ∧ Near (bound v) (dftIm v k) (run v k).im

/-- A choice of FFT_R2C. `given` is any transform with an error bound, which may depend on the vector,
that it keeps. `coarse` answers zeros and owns up to an error of the sum of the magnitudes; it only
shows that the type has a value. -/
inductive Fft where
  | coarse
  | given (run : List F32 → Nat → Cplx Fmt.b32) (bound : List F32 → Rat)
      (within : WithinBound run bound)
  deriving Inhabited

/-- Bin `k` of the transform of a vector. -/
def Fft.run : Fft → List F32 → Nat → Cplx Fmt.b32
  | .coarse => fun _ _ => Cplx.zero
  | .given run _ _ => run

/-- The parameter's error bound for a vector. -/
def Fft.bound : Fft → List F32 → Rat
  | .coarse => fun v => (v.map fun x => |x.toRat|).sum
  | .given _ bound _ => bound

end Sys2Proof
end

