-- ==== Sys2Proof/Config.lean ====
section
/-! DEFINITION. The implementation parameters of 00_scope.md R7: the sizes the spec decides, and the
OPEN parameters, which are opaque constants without a body, so that no proof can see a value of
theirs. The decided numeric constants are in Machine/Constants.lean. -/

namespace Sys2Proof

namespace Config

/-- N_BANDS: parametric bands per channel. -/
def nBands : Nat := 4
/-- N_CHAN_MAX: channels. -/
def nChanMax : Nat := 2
/-- BUF_MAX: samples per channel per command. -/
def bufMax : Nat := 8192
/-- SUB_NOM: nominal sub-block length. -/
def subNom : Nat := 32
/-- SUB_MAX: largest sub-block. -/
def subMax : Nat := 48
/-- XF_STEPS: crossfade counter maximum. -/
def xfSteps : Nat := 16
/-- FFT_MIN: least transform length. -/
def fftMin : Nat := 16
/-- FFT_MAX: greatest transform length. -/
def fftMax : Nat := 8192
/-- IPSIZE: analyser circular buffer length. -/
def ipSize : Nat := 8192
/-- AN_LEN_RESET: the transform length at power-on. -/
def anLenReset : Nat := 8192
/-- LP_AUX_SHELF: the optional near-Nyquist shelf of the low-pass is absent (42_hplp.md R210). -/
def lpAuxShelf : Bool := false
/-- SKIP_AT_BYPASS: the HP/LP skip at exact bypass is mandatory (42_hplp.md R211). -/
def skipAtBypass : Bool := true

/-- NUM.sin (R20). A free function: whatever it is, the model's claims hold. -/
opaque sin : F64 → F64
/-- NUM.cos (R20). -/
opaque cos : F64 → F64
/-- NUM.tan (R20). -/
opaque tan : F64 → F64
/-- NUM.exp (R20). -/
opaque exp : F64 → F64
/-- NUM.log10 (R20). -/
opaque log10 : F64 → F64
/-- NUM.pow (R20). -/
opaque pow : F64 → F64 → F64
/-- Taps 0..4 of CONV0, which is symmetric (45_analyser.md R291). -/
opaque conv0Half : Nat → FiniteF32
/-- Taps 0..3 of CONV1, which is antisymmetric (45_analyser.md R291). -/
opaque conv1Half : Nat → FiniteF32
/-- FFT_R2C: a transform and the error bound it keeps (45_analyser.md R289; log entry 6). -/
opaque fft : Fft
/-- NAN_OUT: sign and payload of the quiet NaN drawn at draw `n` (R13). -/
opaque nanOut : Nat → BitVec 23
/-- The byte that address `a` of AUDIO holds at power-on (10_state.md R64; 93 I8). -/
opaque audioPowerOn : Nat → Byte

end Config

/-- The configuration record NUM of 00_scope.md R20: total functions, nothing else assumed. -/
structure Num where
  sin : F64 → F64
  cos : F64 → F64
  tan : F64 → F64
  exp : F64 → F64
  log10 : F64 → F64
  pow : F64 → F64 → F64

/-- The OPEN parameters of 00_scope.md R7, which a model takes as an argument. -/
structure Params where
  num : Num
  conv0Half : Nat → FiniteF32
  conv1Half : Nat → FiniteF32
  fft : Fft
  nanOut : Nat → BitVec 23
  audioPowerOn : Nat → Byte

/-- The block's own parameters: every one of them a free value. -/
def Config.params : Params where
  num := { sin := Config.sin, cos := Config.cos, tan := Config.tan, exp := Config.exp,
           log10 := Config.log10, pow := Config.pow }
  conv0Half := Config.conv0Half
  conv1Half := Config.conv1Half
  fft := Config.fft
  nanOut := Config.nanOut
  audioPowerOn := Config.audioPowerOn

end Sys2Proof
end

