-- ==== Sys2Proof/Machine/State.lean ====
section
/-! DEFINITION. The state of the FIL4 core (10_state.md), the reasons a step can stop, and the state
after power-on reset (R64, R65). Host-visible registers and memories hold bit patterns (`Word`),
hidden fields hold values (`F32`, `F64`). -/

namespace Sys2Proof.Machine

/-- Reasons a step can end in a fault: none. Interface errors are recorded in ERR and CAUSE and the
machine goes on (60_exceptions.md R342, R346); numeric conditions raise nothing (R340); every
command runs to completion (R357). Log entry 16. -/
inductive Fault where
  deriving DecidableEq, Repr

/-- Reasons a step can be refused. -/
inductive Refusal where
  /-- Raised by an arm of `exec` whose instruction has no meaning yet. Safe: the run stops. -/
  | notModelled (mnemonic : String)
  /-- Raised by `process` when the configuration asks for the low-pass's auxiliary shelf, which the
  spec does not define and tells a model to refuse (42_hplp.md R210; 93 I6). Safe: the run stops. It
  cannot be raised while `Config.lpAuxShelf` is false. -/
  | lpAuxShelf
  deriving DecidableEq, Repr

/-- The cause of the most recent error (60_exceptions.md R341); only these five codes are produced
(93 I9). -/
inductive Cause where
  | none
  | illegalCmd
  | notInit
  | badOperand
  | busFault
  deriving DecidableEq, Repr

/-- Parameter registers of the high-pass or the low-pass (10_state.md R45). -/
structure HplpControls where
  en : Bool
  freq : Word
  res : Word
  deriving DecidableEq, Repr, Inhabited

/-- Parameter registers of a shelf (10_state.md R45). -/
structure ShelfControls where
  en : Bool
  freq : Word
  q : Word
  gainDb : Word
  deriving DecidableEq, Repr, Inhabited

/-- Parameter registers of a band (10_state.md R45). -/
structure BandControls where
  en : Bool
  freq : Word
  bw : Word
  gainDb : Word
  deriving DecidableEq, Repr, Inhabited

/-- The parameter registers, one set for every channel (10_state.md R43 to R46; 44_channel.md R264).
Enables hold one bit, floats hold the written pattern. -/
structure Controls where
  globalEn : Bool
  globalGainDb : Word
  hp : HplpControls
  lp : HplpControls
  ls : ShelfControls
  hs : ShelfControls
  bands : List BandControls
  anPhold : Bool
  deriving DecidableEq, Repr

/-- A high-pass or low-pass section (10_state.md R53): pole coefficient, resonance, engage factor and
two delay registers. -/
structure Hplp where
  p : F32
  q : F32
  g : F32
  z1 : F32
  z2 : F32
  deriving DecidableEq, Repr, Inhabited

/-- A parametric band section (10_state.md R54): smoothed parameters, the values of the last
coefficient computation, the coefficients, and four delay registers. -/
structure Band where
  fr : F32
  bw : F32
  gl : F32
  frU : F32
  bwU : F32
  glU : F32
  s1 : F32
  s2 : F32
  a : F32
  z0 : F32
  z1 : F32
  z2 : F32
  z3 : F32
  deriving DecidableEq, Repr, Inhabited

/-- A shelf section (10_state.md R55): smoothed parameters, the values of the last recompute, five
normalised coefficients and two delay registers. -/
structure Shelf where
  fr : F32
  qv : F32
  gdb : F32
  frU : F32
  qvU : F32
  gdbU : F32
  b0 : F64
  b1 : F64
  b2 : F64
  a1 : F64
  a2 : F64
  z1 : F64
  z2 : F64
  deriving DecidableEq, Repr, Inhabited

/-- A channel record CH[c] (10_state.md R50): crossfade counter (R51), smoothed global gain (R52) and
one instance of each section. -/
structure Chan where
  xf : Nat
  gs : F32
  hp : Hplp
  lp : Hplp
  bands : List Band
  ls : Shelf
  hs : Shelf
  deriving DecidableEq, Repr, Inhabited

/-- The analyser record AN (10_state.md R56 to R59). -/
structure Analyser where
  len : Nat
  wfact : Word
  speed : Word
  asm : F32
  ipbuf : List Word
  wr : Nat
  pend : Nat
  warpst : List F32
  power : List Word
  peak : List Word
  pmax : Word
  valid : Bool
  deriving DecidableEq, Repr

/-- AUDIO as bytes (20_memory.md R86, R87): a list of (address, byte) pairs with strictly rising
addresses. An unlisted address has not been written since power-on (log entry 8). -/
abbrev Memory := List Host.Cell

/-- The machine. `err`, `cause`, `chg`, `initDone` and `an.valid` are the state behind STATUS
(10_state.md R60). `bus` (the host's accesses still to come), `rdata` (the word the last bus read
returned) and `draws` (how many NaN patterns have been drawn) are the model's own fields (log entries
1, 2 and 3). -/
structure State where
  err : Bool
  cause : Cause
  chg : Bool
  initDone : Bool
  arg0 : Word
  result : Word
  rate : Word
  nchan : Fin (Config.nChanMax + 1)
  ctl : Controls
  ch : List Chan
  an : Analyser
  mem : Memory
  bus : List BusAccess
  rdata : Word
  draws : Nat
  deriving DecidableEq, Repr

/-- +0.0 in binary32. -/
def f32Zero : F32 := .num false ⟨0, by decide⟩

/-- 1.0 in binary32, pattern 0x3F800000. -/
def f32One : F32 := .num false ⟨0x3F800000, by decide⟩

/-- +0.0 in binary64. -/
def f64Zero : F64 := .num false ⟨0, by decide⟩

/-- The reset column of 10_state.md R45. The patterns are those of 20.0, 0.7, 20000.0, 80.0, 1.0,
8000.0 and, for the bands, 160.0, 400.0, 1250.0 and 4000.0. -/
def Controls.reset : Controls where
  globalEn := false
  globalGainDb := 0x00000000
  hp := { en := false, freq := 0x41A00000, res := 0x3F333333 }
  lp := { en := false, freq := 0x469C4000, res := 0x3F333333 }
  ls := { en := false, freq := 0x42A00000, q := 0x3F800000, gainDb := 0x00000000 }
  hs := { en := false, freq := 0x45FA0000, q := 0x3F800000, gainDb := 0x00000000 }
  bands := [
    { en := false, freq := 0x43200000, bw := 0x3F800000, gainDb := 0x00000000 },
    { en := false, freq := 0x43C80000, bw := 0x3F800000, gainDb := 0x00000000 },
    { en := false, freq := 0x449C4000, bw := 0x3F800000, gainDb := 0x00000000 },
    { en := false, freq := 0x457A0000, bw := 0x3F800000, gainDb := 0x00000000 }]
  anPhold := false

/-- Every field +0.0 (10_state.md R65). -/
def Hplp.reset : Hplp where
  p := f32Zero
  q := f32Zero
  g := f32Zero
  z1 := f32Zero
  z2 := f32Zero

/-- Every field +0.0 (10_state.md R65). -/
def Band.reset : Band where
  fr := f32Zero
  bw := f32Zero
  gl := f32Zero
  frU := f32Zero
  bwU := f32Zero
  glU := f32Zero
  s1 := f32Zero
  s2 := f32Zero
  a := f32Zero
  z0 := f32Zero
  z1 := f32Zero
  z2 := f32Zero
  z3 := f32Zero

/-- Every field +0.0 (10_state.md R65). -/
def Shelf.reset : Shelf where
  fr := f32Zero
  qv := f32Zero
  gdb := f32Zero
  frU := f32Zero
  qvU := f32Zero
  gdbU := f32Zero
  b0 := f64Zero
  b1 := f64Zero
  b2 := f64Zero
  a1 := f64Zero
  a2 := f64Zero
  z1 := f64Zero
  z2 := f64Zero

/-- Every float +0.0 and XF = 0, except GS = 1.0 (10_state.md R65). -/
def Chan.reset : Chan where
  xf := 0
  gs := f32One
  hp := Hplp.reset
  lp := Hplp.reset
  bands := List.replicate Config.nBands Band.reset
  ls := Shelf.reset
  hs := Shelf.reset

/-- The analyser at power-on (10_state.md R64, R65): SPEED is 0.5, pattern 0x3F000000. -/
def Analyser.reset : Analyser where
  len := Config.anLenReset
  wfact := 0x00000000
  speed := 0x3F000000
  asm := f32Zero
  ipbuf := List.replicate Config.ipSize 0
  wr := 0
  pend := 0
  warpst := List.replicate Config.fftMax f32Zero
  power := List.replicate (Config.fftMax / 2 + 1) 0
  peak := List.replicate (Config.fftMax / 2 + 1) 0
  pmax := 0x00000000
  valid := false

/-- The machine right after power-on reset (70_reset_and_hazards.md R370). No AUDIO word has been
written, and the host has no access pending. -/
def State.reset : State where
  err := false
  cause := .none
  chg := false
  initDone := false
  arg0 := 0x00000000
  result := 0x00000000
  rate := 0x00000000
  nchan := 0
  ctl := Controls.reset
  ch := List.replicate Config.nChanMax Chan.reset
  an := Analyser.reset
  mem := []
  bus := []
  rdata := 0x00000000
  draws := 0

end Sys2Proof.Machine
end

