-- ==== Sys2Proof/Machine/Ops.lean ====
section
/-! DEFINITION. The named operations over the state: recording an error and clearing it, AUDIO
memory, channel records, the free value NAN_OUT, and the checks every command shares. -/

namespace Sys2Proof.Machine

/-- What a meaning answers. -/
abbrev Result := Host.Outcome State Fault Refusal

/-- `Error(cause)` of 60_exceptions.md R342: ERR and CAUSE are written, nothing else changes. It is
both `raise Error(cause)` of a command and the record of a bus fault. -/
def State.raise (s : State) (c : Cause) : State := { s with err := true, cause := c }

/-- The way back from an error, a write of 1 to STATUS bit 0 (60_exceptions.md R344). -/
def State.clearError (s : State) : State := { s with err := false, cause := .none }

/-- The error a command other than `nop` and `init` raises, if any, `ok` saying that its operands are
in range: NOT_INIT before the first successful `init`, then BAD_OPERAND (30_encoding.md R123;
60_exceptions.md R345; ILLEGAL_CMD is decided by the decoder before). -/
def State.commandError (s : State) (ok : Bool) : Option Cause :=
  if !s.initDone then some .notInit else if !ok then some .badOperand else none

/-- Runs a command: on an error only ERR and CAUSE change, otherwise its effect happens whole
(60_exceptions.md R342, R346). -/
def runCommand (error : Option Cause) (effect : State → State) (s : State) : Result :=
  match error with
  | some c => .next (s.raise c)
  | none => .next (effect s)

/-- The byte last written to an address since power-on, if any. -/
def Memory.find (a : Nat) : Memory → Option Byte
  | [] => none
  | (b, v) :: m => if a = b then some v else Memory.find a m

/-- Writes one byte, keeping the addresses strictly rising. -/
def Memory.write (a : Nat) (v : Byte) : Memory → Memory
  | [] => [(a, v)]
  | (b, w) :: m =>
    if a < b then (a, v) :: (b, w) :: m
    else if a = b then (a, v) :: m
    else (b, w) :: Memory.write a v m

/-- The canonical form of memory: strictly rising addresses. An unlisted address reads as "not
written", which is no byte, so no entry can equal it. -/
abbrev Memory.wf (m : Memory) : Prop := m.Pairwise fun x y => x.1 < y.1

/-- What a byte of AUDIO reads as: the byte last written, or what it held at power-on (log entry 8). -/
def Memory.byteAt (P : Params) (m : Memory) (a : Nat) : Byte := (m.find a).getD (P.audioPowerOn a)

/-- The little-endian word at an address (20_memory.md R87). -/
def Memory.wordAt (P : Params) (m : Memory) (a : Nat) : Word :=
  m.byteAt P (a + 3) ++ m.byteAt P (a + 2) ++ m.byteAt P (a + 1) ++ m.byteAt P a

/-- Stores a word at an address, little-endian (20_memory.md R87). -/
def Memory.writeWord (m : Memory) (a : Nat) (w : Word) : Memory :=
  (((m.write a (w.extractLsb' 0 8)).write (a + 1) (w.extractLsb' 8 8)).write (a + 2)
    (w.extractLsb' 16 8)).write (a + 3) (w.extractLsb' 24 8)

/-- The byte address of AUDIO[c][j] (20_memory.md R86). -/
def audioAddr (c j : Nat) : Nat := 0x20000 + 0x8000 * c + 4 * j

/-- The pattern of AUDIO[c][j] (20_memory.md R86). -/
def State.audioWord (P : Params) (s : State) (c j : Nat) : Word := s.mem.wordAt P (audioAddr c j)

/-- AUDIO[c][off .. off+k-1] as binary32 values (00_scope.md R11). -/
def State.audioBlock (P : Params) (s : State) (c off k : Nat) : List F32 :=
  (List.range k).map fun j => F32.ofWord (s.audioWord P c (off + j))

/-- The quiet NaN that the `i`-th draw from the counter `d` on gives (00_scope.md R13, NAN_OUT). -/
def drawNan (P : Params) (d i : Nat) : Word := quietNan (P.nanOut (d + i))

/-- Stores values at consecutive words from address `a` on, one draw for each value. -/
def Memory.writeFloats (P : Params) (d : Nat) (a : Nat) : List F32 → Memory → Memory
  | [], m => m
  | v :: vs, m => Memory.writeFloats P (d + 1) (a + 4) vs (m.writeWord a (v.toWord (drawNan P d 0)))

/-- Overwrites AUDIO[c][off ..] with the values (44_channel.md R263). -/
def State.writeAudio (P : Params) (c off : Nat) (vs : List F32) (s : State) : State :=
  { s with
    mem := s.mem.writeFloats P s.draws (audioAddr c off) vs
    draws := s.draws + vs.length }

/-- Writes RESULT (10_state.md R35). -/
def State.setResult (P : Params) (v : F32) (s : State) : State :=
  { s with result := v.toWord (drawNan P s.draws 0), draws := s.draws + 1 }

/-- The channel record CH[c] (10_state.md R50). -/
def State.chan (s : State) (c : Nat) : Chan := s.ch.getD c Chan.reset

/-- Replaces the channel record CH[c]. -/
def State.setChan (c : Nat) (x : Chan) (s : State) : State := { s with ch := s.ch.set c x }

/-- Sets CHG if any coefficient was recomputed (44_channel.md R262). -/
def State.orChg (b : Bool) (s : State) : State := { s with chg := s.chg || b }

/-- Band record i of a channel (10_state.md R54). -/
def Chan.band (x : Chan) (i : Nat) : Band := x.bands.getD i Band.reset

/-- Runs a sample-by-sample recursion over a block, in sample order (00_scope.md R19). -/
def scanBlock {σ α β : Type} (f : σ → α → σ × β) : σ → List α → σ × List β
  | st, [] => (st, [])
  | st, x :: xs =>
    let (st1, y) := f st x
    let (st2, ys) := scanBlock f st1 xs
    (st2, y :: ys)

/-- Applies `f` to each sample with its index, the first index being `j`. -/
def mapFrom {α β : Type} (f : Nat → α → β) : Nat → List α → List β
  | _, [] => []
  | j, x :: xs => f j x :: mapFrom f (j + 1) xs

end Sys2Proof.Machine
end

