-- ==== Sys2Proof/Machine/Flags.lean ====
section
/-! DEFINITION. The flags: the STATUS word (10_state.md R32), the CAUSE codes (60_exceptions.md R341)
and the host's write to STATUS (R344). -/

namespace Sys2Proof.Machine

/-- The code of a cause in STATUS[11:8] (60_exceptions.md R341). -/
def Cause.code : Cause → BitVec 4
  | .none => 0
  | .illegalCmd => 1
  | .notInit => 2
  | .badOperand => 3
  | .busFault => 4

/-- One bit as a vector. -/
def bit (b : Bool) : BitVec 1 := if b then 1 else 0

/-- STATUS (10_state.md R32): CAUSE in 11:8, INIT_DONE in 3, AN_VALID in 2, CHG in 1, ERR in 0; the
reserved bits read 0. -/
def State.status (s : State) : Word :=
  (0 : BitVec 20) ++ s.cause.code ++ (0 : BitVec 4) ++ bit s.initDone ++ bit s.an.valid ++ bit s.chg
    ++ bit s.err

/-- A host write to STATUS: bit 0 clears ERR and CAUSE, every other bit is ignored (10_state.md R32;
60_exceptions.md R344). -/
def State.writeStatus (v : Word) (s : State) : State := if v.getLsbD 0 then s.clearError else s

end Sys2Proof.Machine
end

