-- ==== Sys2Proof/Machine/Operands.lean ====
section
/-! DEFINITION. The operands of commands and of bus accesses: the float operand ARG0 (30_encoding.md
R114), the names of the registers, and what each bus address names (20_memory.md R81, R85). -/

namespace Sys2Proof.Machine

/-- REG[ARG0] read as binary32 (30_encoding.md R114). -/
def State.arg0F (s : State) : F32 := F32.ofWord s.arg0

/-- REG[RATE] read as binary32 (10_state.md R36). -/
def State.rateF (s : State) : F32 := F32.ofWord s.rate

/-- The interface registers (20_memory.md R82). -/
inductive IfaceReg where
  | id | status | cmd | arg0 | result | rate | nchan | hwcfg | anFftlen | anWarp | anSpeed | anPmax
  deriving DecidableEq, Repr

/-- The parameter registers (10_state.md R45). -/
inductive CtlReg where
  | globalEn | globalGainDb
  | hpEn | hpFreq | hpRes
  | lpEn | lpFreq | lpRes
  | lsEn | lsFreq | lsQ | lsGainDb
  | hsEn | hsFreq | hsQ | hsGainDb
  | bandEn (i : Nat) | bandFreq (i : Nat) | bandBw (i : Nat) | bandGainDb (i : Nat)
  | anPhold
  deriving DecidableEq, Repr

/-- What a mapped word address names (20_memory.md R81). -/
inductive Target where
  | iface (r : IfaceReg)
  | ctl (r : CtlReg)
  | power (k : Nat)
  | peak (k : Nat)
  | audio (c j : Nat)
  deriving DecidableEq, Repr

/-- The address of an interface register (20_memory.md R82). -/
def IfaceReg.addr : IfaceReg → Nat
  | .id => 0x000
  | .status => 0x004
  | .cmd => 0x008
  | .arg0 => 0x00C
  | .result => 0x010
  | .rate => 0x014
  | .nchan => 0x018
  | .hwcfg => 0x01C
  | .anFftlen => 0x020
  | .anWarp => 0x024
  | .anSpeed => 0x028
  | .anPmax => 0x02C

/-- The address of a parameter register (10_state.md R45). -/
def CtlReg.addr : CtlReg → Nat
  | .globalEn => 0x100
  | .globalGainDb => 0x104
  | .hpEn => 0x110
  | .hpFreq => 0x114
  | .hpRes => 0x118
  | .lpEn => 0x120
  | .lpFreq => 0x124
  | .lpRes => 0x128
  | .lsEn => 0x130
  | .lsFreq => 0x134
  | .lsQ => 0x138
  | .lsGainDb => 0x13C
  | .hsEn => 0x140
  | .hsFreq => 0x144
  | .hsQ => 0x148
  | .hsGainDb => 0x14C
  | .bandEn i => 0x150 + 16 * i
  | .bandFreq i => 0x154 + 16 * i
  | .bandBw i => 0x158 + 16 * i
  | .bandGainDb i => 0x15C + 16 * i
  | .anPhold => 0x190

/-- The address of a mapped word (20_memory.md R81, R84, R86). -/
def Target.addr : Target → Nat
  | .iface r => r.addr
  | .ctl r => r.addr
  | .power k => 0x10000 + 4 * k
  | .peak k => 0x18000 + 4 * k
  | .audio c j => audioAddr c j

/-- The interface register at an address below 0x100 (20_memory.md R82). -/
def ifaceAt : Nat → Option IfaceReg
  | 0x000 => some .id
  | 0x004 => some .status
  | 0x008 => some .cmd
  | 0x00C => some .arg0
  | 0x010 => some .result
  | 0x014 => some .rate
  | 0x018 => some .nchan
  | 0x01C => some .hwcfg
  | 0x020 => some .anFftlen
  | 0x024 => some .anWarp
  | 0x028 => some .anSpeed
  | 0x02C => some .anPmax
  | _ => none

/-- The register of band `i` at word offset `k` of its four words (10_state.md R45). -/
def bandAt (i : Nat) : Nat → CtlReg
  | 0 => .bandEn i
  | 1 => .bandFreq i
  | 2 => .bandBw i
  | _ => .bandGainDb i

/-- The parameter register at a word-aligned address (10_state.md R45). -/
def ctlAt (a : Nat) : Option CtlReg :=
  if 0x150 ≤ a ∧ a < 0x150 + 16 * Config.nBands then
    some (bandAt ((a - 0x150) / 16) ((a - 0x150) % 16 / 4))
  else
    match a with
    | 0x100 => some .globalEn
    | 0x104 => some .globalGainDb
    | 0x110 => some .hpEn
    | 0x114 => some .hpFreq
    | 0x118 => some .hpRes
    | 0x120 => some .lpEn
    | 0x124 => some .lpFreq
    | 0x128 => some .lpRes
    | 0x130 => some .lsEn
    | 0x134 => some .lsFreq
    | 0x138 => some .lsQ
    | 0x13C => some .lsGainDb
    | 0x140 => some .hsEn
    | 0x144 => some .hsFreq
    | 0x148 => some .hsQ
    | 0x14C => some .hsGainDb
    | 0x190 => some .anPhold
    | _ => none

/-- What a word-aligned address names, if it is mapped (20_memory.md R81). -/
def targetAt (a : Nat) : Option Target :=
  if a < 0x100 then (ifaceAt a).map .iface
  else if a < 0x10000 then (ctlAt a).map .ctl
  else if a ≤ 0x10000 + 4 * (Config.fftMax / 2) then some (.power ((a - 0x10000) / 4))
  else if 0x18000 ≤ a ∧ a ≤ 0x18000 + 4 * (Config.fftMax / 2) then some (.peak ((a - 0x18000) / 4))
  else if 0x20000 ≤ a ∧ a < 0x20000 + 0x8000 * Config.nChanMax then
    some (.audio ((a - 0x20000) / 0x8000) ((a - 0x20000) % 0x8000 / 4))
  else none

/-- What a bus address names: nothing when it is misaligned or unmapped (20_memory.md R85, R88, R90). -/
def locate (a : Word) : Option Target := if a.toNat % 4 = 0 then targetAt a.toNat else none

/-- True of the words a host may not write (20_memory.md R91). -/
def Target.readOnly : Target → Bool
  | .iface .id | .iface .result | .iface .rate | .iface .nchan | .iface .hwcfg | .iface .anFftlen
  | .iface .anWarp | .iface .anSpeed | .iface .anPmax => true
  | .iface .status | .iface .cmd | .iface .arg0 => false
  | .ctl _ => false
  | .power _ | .peak _ => true
  | .audio _ _ => false

/-- ID (10_state.md R31). -/
def idWord : Word := 0x46494C34

/-- HWCFG (10_state.md R38): N_BANDS, N_CHAN_MAX, log2(FFT_MAX) and log2(BUF_MAX). -/
def hwcfgWord : Word :=
  BitVec.ofNat 8 0 ++ BitVec.ofNat 8 Config.bufMax.log2 ++ BitVec.ofNat 8 Config.fftMax.log2
    ++ BitVec.ofNat 4 Config.nChanMax ++ BitVec.ofNat 4 Config.nBands

/-- What an interface register reads as (10_state.md R31 to R42). -/
def State.readIface (s : State) : IfaceReg → Word
  | .id => idWord
  | .status => s.status
  | .cmd => 0
  | .arg0 => s.arg0
  | .result => s.result
  | .rate => s.rate
  | .nchan => BitVec.ofNat 32 s.nchan.val
  | .hwcfg => hwcfgWord
  | .anFftlen => BitVec.ofNat 32 s.an.len
  | .anWarp => s.an.wfact
  | .anSpeed => s.an.speed
  | .anPmax => s.an.pmax

/-- An enable register as a word: bits 31:1 read 0 (10_state.md R43). -/
def enWord (b : Bool) : Word := if b then 1 else 0

/-- The parameter registers of band `i`. -/
def Controls.band (r : Controls) (i : Nat) : BandControls := r.bands.getD i default

/-- Replaces the parameter registers of band `i`. -/
def Controls.setBand (r : Controls) (i : Nat) (b : BandControls) : Controls :=
  { r with bands := r.bands.set i b }

/-- What a parameter register reads as (10_state.md R43, R44). -/
def Controls.read (r : Controls) : CtlReg → Word
  | .globalEn => enWord r.globalEn
  | .globalGainDb => r.globalGainDb
  | .hpEn => enWord r.hp.en
  | .hpFreq => r.hp.freq
  | .hpRes => r.hp.res
  | .lpEn => enWord r.lp.en
  | .lpFreq => r.lp.freq
  | .lpRes => r.lp.res
  | .lsEn => enWord r.ls.en
  | .lsFreq => r.ls.freq
  | .lsQ => r.ls.q
  | .lsGainDb => r.ls.gainDb
  | .hsEn => enWord r.hs.en
  | .hsFreq => r.hs.freq
  | .hsQ => r.hs.q
  | .hsGainDb => r.hs.gainDb
  | .bandEn i => enWord (r.band i).en
  | .bandFreq i => (r.band i).freq
  | .bandBw i => (r.band i).bw
  | .bandGainDb i => (r.band i).gainDb
  | .anPhold => enWord r.anPhold

/-- A host write to a parameter register: an enable stores bit 0, a float stores the pattern
(10_state.md R43, R44). -/
def Controls.write (r : Controls) (v : Word) : CtlReg → Controls
  | .globalEn => { r with globalEn := v.getLsbD 0 }
  | .globalGainDb => { r with globalGainDb := v }
  | .hpEn => { r with hp := { r.hp with en := v.getLsbD 0 } }
  | .hpFreq => { r with hp := { r.hp with freq := v } }
  | .hpRes => { r with hp := { r.hp with res := v } }
  | .lpEn => { r with lp := { r.lp with en := v.getLsbD 0 } }
  | .lpFreq => { r with lp := { r.lp with freq := v } }
  | .lpRes => { r with lp := { r.lp with res := v } }
  | .lsEn => { r with ls := { r.ls with en := v.getLsbD 0 } }
  | .lsFreq => { r with ls := { r.ls with freq := v } }
  | .lsQ => { r with ls := { r.ls with q := v } }
  | .lsGainDb => { r with ls := { r.ls with gainDb := v } }
  | .hsEn => { r with hs := { r.hs with en := v.getLsbD 0 } }
  | .hsFreq => { r with hs := { r.hs with freq := v } }
  | .hsQ => { r with hs := { r.hs with q := v } }
  | .hsGainDb => { r with hs := { r.hs with gainDb := v } }
  | .bandEn i => r.setBand i { r.band i with en := v.getLsbD 0 }
  | .bandFreq i => r.setBand i { r.band i with freq := v }
  | .bandBw i => r.setBand i { r.band i with bw := v }
  | .bandGainDb i => r.setBand i { r.band i with gainDb := v }
  | .anPhold => { r with anPhold := v.getLsbD 0 }

/-- The 32-bit word of a mapped address (20_memory.md R84, R85, R86). -/
def State.readTarget (P : Params) (s : State) : Target → Word
  | .iface r => s.readIface r
  | .ctl r => s.ctl.read r
  | .power k => s.an.power.getD k 0
  | .peak k => s.an.peak.getD k 0
  | .audio c j => s.audioWord P c j

/-- Stores a word at a writable mapped address other than CMD (20_memory.md R85); at a read-only one,
and at CMD, whose writes run a command, it stores nothing. -/
def State.writeTarget (s : State) (v : Word) : Target → State
  | .iface .status => s.writeStatus v
  | .iface .arg0 => { s with arg0 := v }
  | .iface _ => s
  | .ctl r => { s with ctl := s.ctl.write v r }
  | .power _ => s
  | .peak _ => s
  | .audio c j => { s with mem := s.mem.writeWord (audioAddr c j) v }

end Sys2Proof.Machine
end

