-- ==== Sys2Proof/Machine/Bus.lean ====
section
/-! DEFINITION. The bus primitives of 20_memory.md R85. A write to CMD is told apart here and executed
by Machine/Step.lean. -/

namespace Sys2Proof.Machine

/-- `MemRead(addr, 4)`: the word returned goes to `rdata`, the model's own record of what the host
read; a misaligned or unmapped read returns 0 and records BUS_FAULT (20_memory.md R85, R88, R90). -/
def busRead (P : Params) (a : Word) (s : State) : State :=
  match locate a with
  | none => { s.raise .busFault with rdata := 0 }
  | some t => { s with rdata := s.readTarget P t }

/-- True of the address whose writes execute a command (10_state.md R33). -/
def isCmd (a : Word) : Bool := locate a == some (.iface .cmd)

/-- `MemWrite(addr, 4, v)` to an address other than CMD: a misaligned, unmapped or read-only write
changes nothing and records BUS_FAULT (20_memory.md R85, R88, R90, R91). -/
def busWrite (a v : Word) (s : State) : State :=
  match locate a with
  | none => s.raise .busFault
  | some t => if t.readOnly then s.raise .busFault else s.writeTarget v t

end Sys2Proof.Machine
end

