-- ==== Sys2Proof/Machine/Constants.lean ====
section
/-! DEFINITION. The decided numeric constants of 00_scope.md R7, each the nearest value of its format
to the decimal of the table (R9), and the parameter curves SHELF_Q_MAP, RES_LP and RES_HP. -/

namespace Sys2Proof.Const

variable {f : Fmt}

/-- 0.0. -/
def zero : Flt f := Flt.zero false
/-- 1.0. -/
def one : Flt f := Flt.ofNat 1
/-- 2.0. -/
def two : Flt f := Flt.ofNat 2
/-- 10.0. -/
def ten : Flt f := Flt.ofNat 10
/-- 20.0. -/
def twenty : Flt f := Flt.ofNat 20
/-- 40.0. -/
def forty : Flt f := Flt.ofNat 40
/-- 0.5. -/
def half : Flt f := Flt.ofDec 1 2

/-- SMOOTH_K = 0.01 (43_smoother.md R230). -/
def smoothK : F32 := Flt.ofDec 1 100
/-- SNAP_EPS = 1e-5 (43_smoother.md R230). -/
def snapEps : F32 := Flt.ofDec 1 (10 ^ 5)
/-- SHELF_RECALC_EPS = 0 (40_shelf.md R143). -/
def shelfRecalcEps : F32 := zero
/-- BAND_RECALC_EPS = 1e-6 (41_band.md R173). -/
def bandRecalcEps : F32 := Flt.ofDec 1 (10 ^ 6)
/-- DENORMAL_FLOOR = 1e-12, in either format (43_smoother.md R236). -/
def denormalFloor : Flt f := Flt.ofDec 1 (10 ^ 12)
/-- AN_EPS = 1e-20, in either format (45_analyser.md R293, R294). -/
def anEps : Flt f := Flt.ofDec 1 (10 ^ 20)
/-- PMAX_DECAY = 0.95 (45_analyser.md R295). -/
def pmaxDecay : F32 := Flt.ofDec 95 100
/-- FR_MIN = 0.0002. -/
def frMin : F32 := Flt.ofDec 2 10000
/-- FR_MAX = 0.4998. -/
def frMax : F32 := Flt.ofDec 4998 10000
/-- SHELF_Q_MIN = 0.25. -/
def shelfQMin : F32 := Flt.ofDec 1 4
/-- SHELF_Q_MAX = 2.0. -/
def shelfQMax : F32 := two
/-- GAIN_DB_MIN = -18.0. -/
def gainDbMin : F32 := Flt.ofDec 18 1 true
/-- GAIN_DB_MAX = +18.0. -/
def gainDbMax : F32 := Flt.ofDec 18 1
/-- BW_MIN = 0.0625 octaves. -/
def bwMin : F32 := Flt.ofDec 1 16
/-- BW_MAX = 4.0 octaves. -/
def bwMax : F32 := Flt.ofNat 4
/-- PI64: the binary64 value nearest to pi (R9), from twenty decimals of pi. -/
def pi64 : F64 := Flt.ofDec 314159265358979323846 (10 ^ 20)
/-- 2.0 * PI64. -/
def twoPi : F64 := two.mul pi64
/-- OMEGA_B_MAX = fl64(0.9 * PI64) (41_band.md R174). -/
def omegaBMax : F64 := (Flt.ofDec 9 10).mul pi64
/-- RES_MAX = 1.4 (42_hplp.md R202). -/
def resMax : F32 := Flt.ofDec 14 10
/-- 2.8 in binary32 (42_hplp.md R202). -/
def resTwice : F32 := Flt.ofDec 28 10
/-- to32(1.0 - GAIN_STEP_MAX) = 0.75 (44_channel.md R257). -/
def gainStepLo : F32 := Flt.ofDec 75 100
/-- to32(1.0 + GAIN_STEP_MAX) = 1.25 (44_channel.md R257). -/
def gainStepHi : F32 := Flt.ofDec 125 100
/-- GAIN_EXP2_SCALE = to32(log2(10)/20) = to32(0.16609640474) (43_smoother.md R235). -/
def gainExp2Scale : F32 := Flt.ofDec 16609640474 (10 ^ 11)
/-- EXP2AP_C1 = 0.6930 (43_smoother.md R234). -/
def exp2apC1 : F32 := Flt.ofDec 6930 10000
/-- EXP2AP_C2 = 0.2416. -/
def exp2apC2 : F32 := Flt.ofDec 2416 10000
/-- EXP2AP_C3 = 0.0517. -/
def exp2apC3 : F32 := Flt.ofDec 517 10000
/-- EXP2AP_C4 = 0.0137. -/
def exp2apC4 : F32 := Flt.ofDec 137 10000
/-- WARP_MAX = 0.99 (45_analyser.md R300). -/
def warpMax : F32 := Flt.ofDec 99 100
/-- SPEED_MIN = 0.001 s (45_analyser.md R301). -/
def speedMin : F32 := Flt.ofDec 1 1000
/-- SPEED_MAX = 100.0 s (45_analyser.md R301). -/
def speedMax : F32 := Flt.ofNat 100
/-- RATE_MIN = 8000.0 Hz (46_control.md R322). -/
def rateMin : F32 := Flt.ofNat 8000
/-- RATE_MAX = 384000.0 Hz (46_control.md R322). -/
def rateMax : F32 := Flt.ofNat 384000

/-- SHELF_Q_MAP: the identity (R7; 93 I1). -/
def shelfQMap (q : F32) : F32 := q
/-- RES_LP(r) = fl32(fl32(r * r) / 1.4) (42_hplp.md R203). -/
def resLp (r : F32) : F32 := (r.mul r).div resMax
/-- RES_HP(r) = fl32(fl32(r * fl32(2.8 - r)) / 2.8) (42_hplp.md R202). -/
def resHp (r : F32) : F32 := (r.mul (resTwice.sub r)).div resTwice

end Sys2Proof.Const
end

