-- ==== Sys2Proof/Machine/Analyser.lean ====
section
/-! DEFINITION. The frequency-warped spectral analyser and its six commands (45_analyser.md). -/

namespace Sys2Proof.Machine

/-- A complex binary32 value. -/
abbrev C32 := Cplx Fmt.b32

/-- CONV0[j] for j = 0..8: symmetric (45_analyser.md R291). -/
def conv0 (P : Params) (j : Nat) : F32 := (P.conv0Half (min j (8 - j))).toF32

/-- CONV1[j] for j = 0..7: antisymmetric (45_analyser.md R291). -/
def conv1 (P : Params) (j : Nat) : F32 :=
  if j < 4 then (P.conv1Half j).toF32 else (P.conv1Half (7 - j)).toF32.neg

/-- FFT_R2C, bins 0..L/2 of a vector of length L (45_analyser.md R289): the zero vector gives zeros of
either sign, any other vector what the parameter gives, within its error bound (log entry 6). -/
def fftR2C (P : Params) (v : List F32) : List C32 :=
  (List.range (v.length / 2 + 1)).map fun k =>
    let b := P.fft.run v k
    if v.all Flt.isZero then ⟨Flt.zero b.re.sign, Flt.zero b.im.sign⟩ else b

/-- `XE[i]` of `EXTEND(X)` for i = -4 .. h+4, with h = L/2 (45_analyser.md R290). -/
def extendAt (X : List C32) (h : Nat) (i : Int) : C32 :=
  if i < 0 then (X.getD (-i).toNat Cplx.zero).conj
  else if i ≤ h then X.getD i.toNat Cplx.zero
  else (X.getD (2 * (h : Int) - i).toNat Cplx.zero).conj

/-- The sum of a kernel of `n` taps over the bins from `first` on (45_analyser.md R292). -/
def convSum (tap : Nat → F32) (n : Nat) (X : List C32) (h : Nat) (first : Int) : C32 :=
  (List.range n).foldl (fun c j => c.add (Cplx.smul (tap j) (extendAt X h (first + j)))) Cplx.zero

/-- `BIN_POWER(XE, k)` (45_analyser.md R292). -/
def binPower (P : Params) (X : List C32) (h k : Nat) : F32 :=
  (convSum (conv0 P) 9 X h ((k : Int) - 4)).normSq.add
    (convSum (conv1 P) 8 X h ((k : Int) - 3)).normSq

/-- `POWER_UPDATE(P, e)` (45_analyser.md R293). -/
def powerUpdate (asm p e : F32) : F32 := (p.add (asm.mul (e.sub p))).add Const.anEps

/-- The stages after the first of the warping chain (45_analyser.md R287): `old` and `new` are the
previous stage's values before and after this step. -/
def warpStages (w : F32) : F32 → F32 → List F32 → List F32
  | _, _, [] => []
  | old, new, y :: ys =>
    let y1 := old.add (w.mul (new.sub y))
    y1 :: warpStages w y y1 ys

/-- `WARP_STEP(s)` on the stages of the chain (45_analyser.md R287), with `w = -WFACT`. -/
def warpStep (w : F32) (line : List F32) (s : F32) : List F32 :=
  match line with
  | [] => []
  | y :: ys => s :: warpStages w y s ys

/-- AN.WFACT as a value. -/
def Analyser.wfactF (a : Analyser) : F32 := F32.ofWord a.wfact

/-- The L/2 samples of a pass, oldest first (45_analyser.md R286). -/
def Analyser.fresh (a : Analyser) : List F32 :=
  (List.range (a.len / 2)).map fun j =>
    F32.ofWord (a.ipbuf.getD ((a.wr + Config.ipSize - a.len / 2 + j) % Config.ipSize) 0)

/-- The warped line of L stages after a pass has fed it its samples (45_analyser.md R286, R287). -/
def Analyser.warped (a : Analyser) : List F32 :=
  a.fresh.foldl (warpStep a.wfactF.neg) (a.warpst.take a.len)

/-- The new AN.POWER[0..h] of a pass; bin k takes draw k (45_analyser.md R292, R293). -/
def Analyser.newPower (P : Params) (d : Nat) (a : Analyser) (line : List F32) : List Word :=
  let X := fftR2C P line
  (List.range (a.len / 2 + 1)).map fun k =>
    (powerUpdate a.asm (F32.ofWord (a.power.getD k 0)) (binPower P X (a.len / 2) k)).toWord
      (drawNan P d k)

/-- The greatest value of a trace, NaN entries skipped, +0.0 if none is greater (45_analyser.md R295). -/
def traceMax (trace : List Word) : F32 :=
  trace.foldl (fun m p => if (F32.ofWord p).gt m then F32.ofWord p else m) Const.zero

/-- `PMAX_UPDATE` (45_analyser.md R295). -/
def pmaxUpdate (pmax : F32) (trace : List Word) : F32 :=
  if (traceMax trace).gt pmax then traceMax trace else Const.pmaxDecay.mul pmax

/-- `PEAK_UPDATE` on the entries 0..L/2 (45_analyser.md R296). -/
def peakUpdate (phold : Bool) (power peak : List Word) : List Word :=
  if phold then
    List.zipWith (fun p q => if (F32.ofWord p).gt (F32.ofWord q) then p else q) power peak
  else peak

/-- `AN_PASS` (45_analyser.md R286): L/2 + 2 draws from the counter `d` on, one for each power bin and
one for PMAX. -/
def anPass (P : Params) (phold : Bool) (d : Nat) (a : Analyser) : Analyser :=
  let n := a.len / 2 + 1
  let line := a.warped
  let pw := a.newPower P d line
  { a with
    warpst := line ++ a.warpst.drop a.len
    power := pw ++ a.power.drop n
    pmax := (pmaxUpdate (F32.ofWord a.pmax) pw).toWord (drawNan P d n)
    peak := peakUpdate phold pw (a.peak.take n) ++ a.peak.drop n
    valid := true }

/-- `AN_PUSH(s)` (45_analyser.md R282), with the draw counter. -/
def anPush (P : Params) (phold : Bool) (x : Analyser × Nat) (s : Word) : Analyser × Nat :=
  let a := { x.1 with
    ipbuf := x.1.ipbuf.set x.1.wr s
    wr := (x.1.wr + 1) % Config.ipSize
    pend := x.1.pend + 1 }
  if a.pend = a.len / 2 then
    ({ anPass P phold x.2 a with pend := 0 }, x.2 + (a.len / 2 + 2))
  else (a, x.2)

/-- The effect of `an.write C, N` on operands in range (45_analyser.md R281). -/
def writeAnalyser (P : Params) (c n : Nat) (s : State) : State :=
  let r := ((List.range n).map (s.audioWord P c)).foldl (anPush P s.ctl.anPhold) (s.an, s.draws)
  { s with an := r.1, draws := r.2 }

/-- `AN_ASM` (45_analyser.md R294). -/
def asmOf (P : Params) (len : Nat) (rate speed : F32) : F32 :=
  let T := (Flt.ofNat (len / 2)).div rate.to64
  (Const.one.sub
    (P.num.pow (Flt.ofDec 1 10) (T.div (speed.to64.add Const.anEps)))).to32

/-- Recomputes AN.ASM from L, RATE and SPEED (45_analyser.md R294). -/
def Analyser.setAsm (P : Params) (rate : F32) (a : Analyser) : Analyser :=
  { a with asm := asmOf P a.len rate (F32.ofWord a.speed) }

/-- A trace of zeros (45_analyser.md R302, R303). -/
def zeroTrace : List Word := List.replicate (Config.fftMax / 2 + 1) 0

/-- `AN_CLEAR` (45_analyser.md R303). -/
def Analyser.clear (a : Analyser) : Analyser :=
  { a with
    power := zeroTrace
    peak := zeroTrace
    warpst := List.replicate Config.fftMax Const.zero
    pmax := 0
    valid := false }

/-- `AN_INIT` (45_analyser.md R306), with the new rate. -/
def Analyser.initial (P : Params) (rate : F32) (a : Analyser) : Analyser :=
  ({ a with ipbuf := List.replicate Config.ipSize 0, wr := 0, pend := 0 }.clear).setAsm P rate

/-- `AN_LENGTH(N)`: the largest power of two not above the clamped request (45_analyser.md R299). -/
def anLength (n : Nat) : Nat := 2 ^ (min (max n Config.fftMin) Config.fftMax).log2

/-- The effect of `an.skip N` (45_analyser.md R284). -/
def Analyser.skip (n : Nat) (a : Analyser) : Analyser :=
  { a with wr := (a.wr + n) % Config.ipSize, pend := 0, valid := false }

/-- The effect of `an.setlen N` (45_analyser.md R298). -/
def Analyser.setLen (P : Params) (n : Nat) (rate : F32) (a : Analyser) : Analyser :=
  { { a with len := anLength n }.clear with pend := 0 }.setAsm P rate

/-- The effect of `an.setwarp` on operand `v`, `nan` being the pattern a NaN would be stored as; the
clamp gives none (45_analyser.md R300). -/
def Analyser.setWarp (nan : Word) (v : F32) (a : Analyser) : Analyser :=
  { a with wfact := (v.clamp Const.warpMax.neg Const.warpMax).toWord nan }.clear

/-- The effect of `an.setspeed` on operand `v` (45_analyser.md R301). -/
def Analyser.setSpeed (P : Params) (nan : Word) (v rate : F32) (a : Analyser) : Analyser :=
  { a with speed := (v.clamp Const.speedMin Const.speedMax).toWord nan }.setAsm P rate

/-- The effect of `an.clrpeak` (45_analyser.md R302). -/
def Analyser.clearPeak (a : Analyser) : Analyser := { a with peak := zeroTrace }

/-- Replaces the analyser record. -/
def State.setAn (a : Analyser) (s : State) : State := { s with an := a }

/-- Counts one draw of NAN_OUT (log entry 3). -/
def State.countDraw (s : State) : State := { s with draws := s.draws + 1 }

/-- `an.write C, N` (45_analyser.md R281). -/
def execAnWrite (c n : Nat) (s : State) : Result :=
  runCommand (s.commandError (c < s.nchan.val && n ≤ Config.bufMax))
    (writeAnalyser Config.params c n) s

/-- `an.skip N` (45_analyser.md R284). -/
def execAnSkip (n : Nat) (s : State) : Result :=
  runCommand (s.commandError true) (fun s => s.setAn (s.an.skip n)) s

/-- `an.setlen N` (45_analyser.md R298). -/
def execAnSetlen (n : Nat) (s : State) : Result :=
  runCommand (s.commandError true) (fun s => s.setAn (s.an.setLen Config.params n s.rateF)) s

/-- `an.setwarp` (45_analyser.md R300). -/
def execAnSetwarp (s : State) : Result :=
  runCommand (s.commandError true)
    (fun s => (s.setAn (s.an.setWarp (drawNan Config.params s.draws 0) s.arg0F)).countDraw) s

/-- `an.setspeed` (45_analyser.md R301). -/
def execAnSetspeed (s : State) : Result :=
  runCommand (s.commandError true)
    (fun s => (s.setAn
      (s.an.setSpeed Config.params (drawNan Config.params s.draws 0) s.arg0F s.rateF)).countDraw) s

/-- `an.clrpeak` (45_analyser.md R302). -/
def execAnClrpeak (s : State) : Result :=
  runCommand (s.commandError true) (fun s => s.setAn s.an.clearPeak) s

end Sys2Proof.Machine
end

