-- ==== Sys2Proof/Machine/Smoother.lean ====
section
/-! DEFINITION. The parameter smoother, the fast exponential of the global gain and the denormal flush
(43_smoother.md). -/

namespace Sys2Proof.Machine

/-- `SMOOTH(c, t)` (43_smoother.md R230). -/
def smooth (c t : F32) : F32 :=
  let n := c.add (Const.smoothK.mul (t.sub c))
  if (t.sub n).abs.lt Const.snapEps || n.eq c then t else n

/-- The test of a dirty check: `|fl32(v - u)| > eps` (40_shelf.md R143; 41_band.md R173). -/
def movedBy (eps v u : F32) : Bool := (v.sub u).abs.gt eps

/-- The polynomial of `EXP2AP` on the fraction `f` (43_smoother.md R234). -/
def exp2apPoly (f : F32) : F32 :=
  Const.one.add (f.mul (Const.exp2apC1.add (f.mul (Const.exp2apC2.add (f.mul
    (Const.exp2apC3.add (f.mul Const.exp2apC4)))))))

/-- `EXP2AP(x)` (43_smoother.md R234). -/
def exp2ap (x : F32) : F32 := (exp2apPoly (x.sub (Flt.ofInt x.floor))).scaleB x.floor

/-- `GAIN_LIN(gdb)` (43_smoother.md R235). -/
def gainLin (gdb : F32) : F32 := exp2ap (Const.gainExp2Scale.mul gdb)

/-- `FLUSH32` and `FLUSH64` (43_smoother.md R236). -/
def flush {f : Fmt} (v : Flt f) : Flt f :=
  if v.abs.lt Const.denormalFloor then Flt.zero false else v

end Sys2Proof.Machine
end

