-- ==== Sys2Proof/Machine/Hplp.lean ====
section
/-! DEFINITION. The resonant high-pass and low-pass sections (42_hplp.md). They have no command of
their own; `process` runs them. -/

namespace Sys2Proof.Machine

/-- Which of the two sections (42_hplp.md R200). -/
inductive HplpKind where
  | hp
  | lp
  deriving DecidableEq, Repr

/-- The resonance curve of the section (42_hplp.md R202, R203). -/
def HplpKind.curve : HplpKind → F32 → F32
  | .hp => Const.resHp
  | .lp => Const.resLp

/-- The pole coefficient of a frequency ratio: `to32(1 - exp(-2 pi fr))` (42_hplp.md R202). -/
def poleOf (P : Params) (fr : F32) : F32 :=
  (Const.one.sub (P.num.exp (Const.twoPi.mul fr.to64).neg)).to32

/-- The frequency ratio of a frequency register, clamped (42_hplp.md R202; 40_shelf.md R141;
41_band.md R171). -/
def freqRatio (freq : Word) (rate : F32) : F32 :=
  ((F32.ofWord freq).div rate).clamp Const.frMin Const.frMax

/-- `HP_TARGETS` and `LP_TARGETS` (42_hplp.md R202, R203): the targets of p, q and g. -/
def hplpTargets (P : Params) (x : HplpKind) (r : HplpControls) (rate : F32) : F32 × F32 × F32 :=
  if r.en then
    (poleOf P (freqRatio r.freq rate),
      x.curve ((F32.ofWord r.res).clamp Const.zero Const.resMax),
      Const.one)
  else (Const.one, Const.zero, Const.zero)

/-- `NAN_GUARD(F)` (42_hplp.md R206). -/
def Hplp.nanGuard (F : Hplp) : Hplp :=
  if F.z1.isFinite && F.z2.isFinite then F else { F with z1 := Const.zero, z2 := Const.zero }

/-- `HPLP_INTERPOLATE(F, X)` (42_hplp.md R204): the guard, then one smoothing step of p, q and g. -/
def Hplp.interpolate (P : Params) (x : HplpKind) (r : HplpControls) (rate : F32) (F : Hplp) : Hplp :=
  let t := hplpTargets P x r rate
  let F1 := F.nanGuard
  { F1 with p := smooth F1.p t.1, q := smooth F1.q t.2.1, g := smooth F1.g t.2.2 }

/-- One sample of the recursion (42_hplp.md R205). -/
def Hplp.sample (x : HplpKind) (F : Hplp) (v : F32) : Hplp × F32 :=
  let t := (v.sub F.z1).add (F.q.mul (F.z1.sub F.z2))
  let z1 := F.z1.add (F.p.mul t)
  let z2 := F.z2.add (F.p.mul (z1.sub F.z2))
  let filt := match x with
    | .lp => z2
    | .hp => (v.sub (Const.two.mul z1)).add z2
  ({ F with z1 := z1, z2 := z2 }, v.add (F.g.mul (filt.sub v)))

/-- True of a section at its exact bypass identity (42_hplp.md R211). -/
def Hplp.bypassed (F : Hplp) : Bool := F.g.eq Const.zero && F.p.eq Const.one

/-- `HPLP_COMPUTE(F, X, W, k)` (42_hplp.md R205, R211). -/
def Hplp.compute (x : HplpKind) (F : Hplp) (w : List F32) : Hplp × List F32 :=
  if Config.skipAtBypass && F.bypassed then (F, w) else scanBlock (Hplp.sample x) F w

/-- The flush of the delay registers (42_hplp.md R207). -/
def Hplp.flushed (F : Hplp) : Hplp := { F with z1 := flush F.z1, z2 := flush F.z2 }

/-- `HPLP_RUN(c, X, W, k)` (42_hplp.md R208). -/
def Hplp.run (P : Params) (x : HplpKind) (r : HplpControls) (rate : F32) (F : Hplp) (w : List F32) :
    Hplp × List F32 :=
  let (F1, w1) := (F.interpolate P x r rate).compute x w
  (F1.flushed, w1)

/-- `HPLP_INIT(c, X)` (42_hplp.md R209): the bypass identity. -/
def Hplp.initial : Hplp where
  p := Const.one
  q := Const.zero
  g := Const.zero
  z1 := Const.zero
  z2 := Const.zero

end Sys2Proof.Machine
end

