-- ==== Sys2Proof/Machine/Band.lean ====
section
/-! DEFINITION. The parametric band section and `resp.band` (41_band.md). -/

namespace Sys2Proof.Machine

/-- The linear-gain target of a band (41_band.md R171). -/
def bandGainTarget (P : Params) (r : BandControls) : F32 :=
  if r.en then
    (P.num.pow Const.ten
      (((F32.ofWord r.gainDb).clamp Const.gainDbMin Const.gainDbMax).to64.div Const.twenty)).to32
  else Const.one

/-- `BAND_TARGETS(i)` (41_band.md R171): the targets of fr, bw and gl. -/
def bandTargets (P : Params) (r : BandControls) (rate : F32) : F32 × F32 × F32 :=
  (freqRatio r.freq rate, (F32.ofWord r.bw).clamp Const.bwMin Const.bwMax, bandGainTarget P r)

/-- The bandwidth angle `ob`, clamped to OMEGA_B_MAX (41_band.md R174). -/
def bandOmega (P : Params) (fr bw : F32) : F64 :=
  let w0 := Const.twoPi.mul fr.to64
  let h := bw.to64.div Const.two
  let ob := w0.mul ((P.num.pow Const.two h).sub (P.num.pow Const.two h.neg))
  if ob.gt Const.omegaBMax then Const.omegaBMax else ob

/-- `BAND_COEFFS(B)` (41_band.md R174). -/
def Band.coeffs (P : Params) (B : Band) : Band :=
  let w0 := Const.twoPi.mul B.fr.to64
  let s1 := (P.num.cos w0).neg
  let t := P.num.tan ((bandOmega P B.fr B.bw).div Const.two)
  let s2 := (Const.one.sub t).div (Const.one.add t)
  let a := (B.gl.to64.sqrt.sub Const.one).div Const.two
  { B with s1 := s1.to32, s2 := s2.to32, a := a.to32 }

/-- Records the parameter values of a coefficient computation (41_band.md R173). -/
def Band.markUsed (B : Band) : Band := { B with frU := B.fr, bwU := B.bw, glU := B.gl }

/-- One smoothing step of fr, bw and gl (41_band.md R172). -/
def Band.smoothed (t : F32 × F32 × F32) (B : Band) : Band :=
  { B with fr := smooth B.fr t.1, bw := smooth B.bw t.2.1, gl := smooth B.gl t.2.2 }

/-- The dirty check (41_band.md R173). -/
def Band.dirty (B : Band) : Bool :=
  movedBy Const.bandRecalcEps B.fr B.frU || movedBy Const.bandRecalcEps B.bw B.bwU
    || movedBy Const.bandRecalcEps B.gl B.glU

/-- One lattice section on one sample, with registers `zi`, `zo`: the new registers and the output
(41_band.md R175). DEDUCED (log entry 23): with a = 0 and an all-pass difference that is not finite the
output is a NaN, as R175 computes, against R182 item 3. -/
def latticeSection (s1 s2 a zi zo x : F32) : F32 × F32 × F32 :=
  let y := x.sub (s2.mul zo)
  let ap := zo.add (s2.mul y)
  let y2 := y.sub (s1.mul zi)
  (y2, zi.add (s1.mul y2), x.add (a.mul (x.sub ap)))

/-- One sample through both sections, section 0 first (41_band.md R176). -/
def Band.sample (B : Band) (x : F32) : Band × F32 :=
  let (zi0, zo0, y0) := latticeSection B.s1 B.s2 B.a B.z0 B.z1 x
  let (zi1, zo1, y1) := latticeSection B.s1 B.s2 B.a B.z2 B.z3 y0
  ({ B with z0 := zi0, z1 := zo0, z2 := zi1, z3 := zo1 }, y1)

/-- `BAND_APPLY(B, W, k)` (41_band.md R176, R184). -/
def Band.apply (B : Band) (w : List F32) : Band × List F32 := scanBlock Band.sample B w

/-- The flush of the delay registers (41_band.md R177). -/
def Band.flushed (B : Band) : Band :=
  { B with z0 := flush B.z0, z1 := flush B.z1, z2 := flush B.z2, z3 := flush B.z3 }

/-- Smoothing and, when dirty, recomputation; the flag says whether it recomputed (41_band.md R172
to R174). DEDUCED (log entry 22): gl may reach exactly 1.0 within BAND_RECALC_EPS of gl_u, where R173
keeps the old `a`, although R180 and R182 item 3 take gl = 1.0 to mean a = 0. -/
def Band.update (P : Params) (r : BandControls) (rate : F32) (B : Band) : Band × Bool :=
  let B1 := B.smoothed (bandTargets P r rate)
  if B1.dirty then ((B1.coeffs P).markUsed, true) else (B1, false)

/-- `BAND_RUN(c, i, W, k)` (41_band.md R178). -/
def Band.run (P : Params) (r : BandControls) (rate : F32) (B : Band) (w : List F32) :
    Band × List F32 × Bool :=
  let (B1, chg) := B.update P r rate
  let (B2, w1) := B1.apply w
  (B2.flushed, w1, chg)

/-- `BAND_INIT(c, i)` (41_band.md R179). -/
def Band.initial (P : Params) (r : BandControls) (rate : F32) : Band :=
  let t := bandTargets P r rate
  let B : Band := { Band.reset with fr := t.1, bw := t.2.1, gl := t.2.2 }
  (B.coeffs P).markUsed

/-- The angle of a response command: `2 pi clamp(F / RATE, 0, 0.5)` (40_shelf.md R153; 41_band.md
R181). -/
def respAngle (F rate : F32) : F64 :=
  Const.twoPi.mul ((F.to64.div rate.to64).clamp Const.zero Const.half)

/-- `e^{-jw}` as the response functions write it (40_shelf.md R153; 41_band.md R181). -/
def respUnit (P : Params) (w : F64) : Cplx .b64 := ⟨P.num.cos w, (P.num.sin w).neg⟩

/-- The transfer function H of one band section at angle `w` (41_band.md R181). -/
def Band.transfer (P : Params) (B : Band) (w : F64) : Cplx .b64 :=
  let e1 := respUnit P w
  let e2 := e1.mul e1
  let s1 := B.s1.to64
  let s2 := B.s2.to64
  let a := B.a.to64
  let c := s1.mul (Const.one.add s2)
  let N := ((Cplx.ofReal s2).add (Cplx.smul c e1)).add e2
  let D := ((Cplx.ofReal Const.one).add (Cplx.smul c e1)).add (Cplx.smul s2 e2)
  let A := N.div D
  (Cplx.ofReal Const.one).add (Cplx.smul a ((Cplx.ofReal Const.one).sub A))

/-- `BAND_RESP(B, F)` (41_band.md R181). -/
def Band.resp (P : Params) (B : Band) (F rate : F32) : F32 :=
  (Const.twenty.mul (P.num.log10 (B.transfer P (respAngle F rate)).normSq)).to32

/-- `resp.band I, C` (41_band.md R180). -/
def execRespBand (i c : Nat) (s : State) : Result :=
  runCommand (s.commandError (i < Config.nBands && c < s.nchan.val))
    (fun s => s.setResult Config.params (((s.chan c).band i).resp Config.params s.arg0F s.rateF)) s

end Sys2Proof.Machine
end

