-- ==== Sys2Proof/Machine/Shelf.lean ====
section
/-! DEFINITION. The low-shelf and high-shelf sections, `resp.ls` and `resp.hs` (40_shelf.md). -/

namespace Sys2Proof.Machine

/-- Which shelf (40_shelf.md R140). -/
inductive ShelfKind where
  | low
  | high
  deriving DecidableEq, Repr

/-- `SHELF_TARGETS(which)` (40_shelf.md R141): the targets of fr, qv and gdb. -/
def shelfTargets (r : ShelfControls) (rate : F32) : F32 × F32 × F32 :=
  (freqRatio r.freq rate,
    (Const.shelfQMap (F32.ofWord r.q)).clamp Const.shelfQMin Const.shelfQMax,
    if r.en then (F32.ofWord r.gainDb).clamp Const.gainDbMin Const.gainDbMax else Const.zero)

/-- The operations the coefficient formulas are written in. The block takes them in binary64; the claims
of 40_shelf.md R154 items 2 and 3 take the same formulas in exact arithmetic. -/
structure Arith (α : Type) where
  one : α
  two : α
  neg : α → α
  add : α → α → α
  sub : α → α → α
  mul : α → α → α
  div : α → α → α
  sqrt : α → α

/-- binary64 arithmetic, each operation rounded once (00_scope.md R12). -/
def Arith.binary64 : Arith F64 where
  one := Const.one
  two := Const.two
  neg := Flt.neg
  add := Flt.add
  sub := Flt.sub
  mul := Flt.mul
  div := Flt.div
  sqrt := Flt.sqrt

/-- Six raw biquad coefficients (40_shelf.md R145, R146). -/
structure RawBiquad (α : Type) where
  b0 : α
  b1 : α
  b2 : α
  a0 : α
  a1 : α
  a2 : α
  deriving DecidableEq, Repr

/-- Five normalised biquad coefficients (40_shelf.md R147). -/
structure Biquad (α : Type) where
  b0 : α
  b1 : α
  b2 : α
  a1 : α
  a2 : α
  deriving DecidableEq, Repr

/-- `alpha = sin(w0) / (2 Q)` (40_shelf.md R144). -/
def shelfAlpha {α : Type} (o : Arith α) (sw q : α) : α := o.div sw (o.mul o.two q)

/-- The raw coefficients from A, cos w0 and alpha (40_shelf.md R144 to R146): the two shelves mirror the
signs of t3 and of the t1*cw terms. -/
def rawBiquad {α : Type} (o : Arith α) (which : ShelfKind) (A cw alpha : α) : RawBiquad α :=
  let t1 := o.add A o.one
  let t2 := o.sub A o.one
  let t3 := o.mul t2 cw
  let t4 := o.mul (o.mul o.two (o.sqrt A)) alpha
  match which with
  | .low =>
    { b0 := o.mul A (o.add (o.sub t1 t3) t4)
      b1 := o.mul (o.mul o.two A) (o.sub t2 (o.mul t1 cw))
      b2 := o.mul A (o.sub (o.sub t1 t3) t4)
      a0 := o.add (o.add t1 t3) t4
      a1 := o.mul (o.neg o.two) (o.add t2 (o.mul t1 cw))
      a2 := o.sub (o.add t1 t3) t4 }
  | .high =>
    { b0 := o.mul A (o.add (o.add t1 t3) t4)
      b1 := o.mul (o.mul (o.neg o.two) A) (o.add t2 (o.mul t1 cw))
      b2 := o.mul A (o.sub (o.add t1 t3) t4)
      a0 := o.add (o.sub t1 t3) t4
      a1 := o.mul o.two (o.sub t2 (o.mul t1 cw))
      a2 := o.sub (o.sub t1 t3) t4 }

/-- Normalisation by a0 (40_shelf.md R147). -/
def RawBiquad.normalised {α : Type} (o : Arith α) (r : RawBiquad α) : Biquad α where
  b0 := o.div r.b0 r.a0
  b1 := o.div r.b1 r.a0
  b2 := o.div r.b2 r.a0
  a1 := o.div r.a1 r.a0
  a2 := o.div r.a2 r.a0

/-- The shelf amplitude A = 10^(gdb/40) (40_shelf.md R144; 90_conflicts.md C1). -/
def Shelf.amplitude (P : Params) (S : Shelf) : F64 := P.num.pow Const.ten (S.gdb.to64.div Const.forty)

/-- The angle w0 = 2 pi fr (40_shelf.md R144). -/
def Shelf.angle (S : Shelf) : F64 := Const.twoPi.mul S.fr.to64

/-- The shelf's alpha (40_shelf.md R144). -/
def Shelf.alpha (P : Params) (S : Shelf) : F64 :=
  shelfAlpha .binary64 (P.num.sin S.angle) S.qv.to64

/-- The raw coefficients of a shelf (40_shelf.md R144 to R146). -/
def Shelf.raw (P : Params) (which : ShelfKind) (S : Shelf) : RawBiquad F64 :=
  rawBiquad .binary64 which (S.amplitude P) (P.num.cos S.angle) (S.alpha P)

/-- Stores normalised coefficients (40_shelf.md R147). -/
def Shelf.store (c : Biquad F64) (S : Shelf) : Shelf :=
  { S with b0 := c.b0, b1 := c.b1, b2 := c.b2, a1 := c.a1, a2 := c.a2 }

/-- `SHELF_COEFFS(S, which)`: normalised and stored (40_shelf.md R144 to R147). -/
def Shelf.coeffs (P : Params) (which : ShelfKind) (S : Shelf) : Shelf :=
  S.store ((S.raw P which).normalised .binary64)

/-- Records the values of a recompute (40_shelf.md R143). -/
def Shelf.markUsed (S : Shelf) : Shelf := { S with frU := S.fr, qvU := S.qv, gdbU := S.gdb }

/-- One smoothing step of fr, qv and gdb (40_shelf.md R142). -/
def Shelf.smoothed (t : F32 × F32 × F32) (S : Shelf) : Shelf :=
  { S with fr := smooth S.fr t.1, qv := smooth S.qv t.2.1, gdb := smooth S.gdb t.2.2 }

/-- The dirty check (40_shelf.md R143). -/
def Shelf.dirty (S : Shelf) : Bool :=
  movedBy Const.shelfRecalcEps S.fr S.frU || movedBy Const.shelfRecalcEps S.qv S.qvU
    || movedBy Const.shelfRecalcEps S.gdb S.gdbU

/-- One sample of the direct form II transposed recursion (40_shelf.md R148). DEDUCED (log entry 13): at
0 dB with registers +0.0 a sample of -0.0 comes out as +0.0. -/
def Shelf.sample (S : Shelf) (v : F32) : Shelf × F32 :=
  let x := v.to64
  let y := (S.b0.mul x).add S.z1
  let z1n := ((S.b1.mul x).sub (S.a1.mul y)).add S.z2
  let z2n := (S.b2.mul x).sub (S.a2.mul y)
  ({ S with z1 := z1n, z2 := z2n }, y.to32)

/-- `SHELF_APPLY(S, W, k)` (40_shelf.md R148). -/
def Shelf.apply (S : Shelf) (w : List F32) : Shelf × List F32 := scanBlock Shelf.sample S w

/-- The flush of the delay registers (40_shelf.md R149). -/
def Shelf.flushed (S : Shelf) : Shelf := { S with z1 := flush S.z1, z2 := flush S.z2 }

/-- Smoothing and, when dirty, recomputation; the flag says whether it recomputed (40_shelf.md R142
to R147). -/
def Shelf.update (P : Params) (which : ShelfKind) (r : ShelfControls) (rate : F32) (S : Shelf) :
    Shelf × Bool :=
  let S1 := S.smoothed (shelfTargets r rate)
  if S1.dirty then ((S1.coeffs P which).markUsed, true) else (S1, false)

/-- `SHELF_RUN(c, which, W, k)` (40_shelf.md R150). -/
def Shelf.run (P : Params) (which : ShelfKind) (r : ShelfControls) (rate : F32) (S : Shelf)
    (w : List F32) : Shelf × List F32 × Bool :=
  let (S1, chg) := S.update P which r rate
  let (S2, w1) := S1.apply w
  (S2.flushed, w1, chg)

/-- `SHELF_INIT(c, which)` (40_shelf.md R155). -/
def Shelf.initial (P : Params) (which : ShelfKind) (r : ShelfControls) (rate : F32) : Shelf :=
  let t := shelfTargets r rate
  let S : Shelf := { Shelf.reset with fr := t.1, qv := t.2.1, gdb := t.2.2 }
  (S.coeffs P which).markUsed

/-- `SHELF_RESP(S, F)` (40_shelf.md R153). -/
def Shelf.resp (P : Params) (S : Shelf) (F rate : F32) : F32 :=
  let e1 := respUnit P (respAngle F rate)
  let e2 := e1.mul e1
  let N := ((Cplx.ofReal S.b0).add (Cplx.smul S.b1 e1)).add (Cplx.smul S.b2 e2)
  let D := ((Cplx.ofReal Const.one).add (Cplx.smul S.a1 e1)).add (Cplx.smul S.a2 e2)
  (Const.ten.mul (P.num.log10 (N.normSq.div D.normSq))).to32

/-- `resp.ls C` (40_shelf.md R151). -/
def execRespLs (c : Nat) (s : State) : Result :=
  runCommand (s.commandError (c < s.nchan.val))
    (fun s => s.setResult Config.params ((s.chan c).ls.resp Config.params s.arg0F s.rateF)) s

/-- `resp.hs C` (40_shelf.md R152). -/
def execRespHs (c : Nat) (s : State) : Result :=
  runCommand (s.commandError (c < s.nchan.val))
    (fun s => s.setResult Config.params ((s.chan c).hs.resp Config.params s.arg0F s.rateF)) s

end Sys2Proof.Machine
end

