-- ==== Sys2Proof/Machine/Channel.lean ====
section
/-! DEFINITION. The channel processor and `process` (44_channel.md). -/

namespace Sys2Proof.Machine

/-- `SUBBLOCK_LEN(rem)` (44_channel.md R252). -/
def subblockLen (rem : Nat) : Nat := if rem > Config.subMax then Config.subNom else rem

/-- The sub-blocks, as (offset, length), that `process` runs on the `rem` samples from `off` on, in
order (44_channel.md R251, R252). `fuel` bounds their number; `rem` is always enough. -/
def subblocksFrom : (fuel off rem : Nat) → List (Nat × Nat)
  | 0, _, _ => []
  | fuel + 1, off, rem =>
    if rem = 0 then []
    else (off, subblockLen rem) :: subblocksFrom fuel (off + subblockLen rem) (rem - subblockLen rem)

/-- The sub-blocks of `process n` (44_channel.md R252). -/
def subblocks (n : Nat) : List (Nat × Nat) := subblocksFrom n 0 n

/-- `XF_STEP` (44_channel.md R254). -/
def xfStep (en : Bool) (xf : Nat) : Nat :=
  let x1 := if en ∧ xf < Config.xfSteps then xf + 1 else xf
  if ¬en ∧ x1 > 0 then x1 - 1 else x1

/-- The new smoothed gain of `GAIN_TARGET` (44_channel.md R257). -/
def gainNext (gainDb : Word) (gp : F32) : F32 :=
  let gt := gainLin ((F32.ofWord gainDb).clamp Const.gainDbMin Const.gainDbMax)
  let lo := Const.gainStepLo.mul gp
  let hi := Const.gainStepHi.mul gp
  let gn := if gt.lt lo then lo else gt
  if gn.gt hi then hi else gn

/-- The value a linear ramp of `k` samples from `base` has at sample `j`:
`fl32(base + fl32(fl32(step * (j+1)) / k))` (44_channel.md R258, R260). -/
def rampAt (base step : F32) (k j : Nat) : F32 :=
  base.add ((step.mul (Flt.ofNat (j + 1))).div (Flt.ofNat k))

/-- The samples after the gain ramp from `gp` to `gn` (44_channel.md R258). -/
def gainRamp (gp gn : F32) (w : List F32) : List F32 :=
  mapFrom (fun j x => x.mul (rampAt gp (gn.sub gp) w.length j)) 0 w

/-- The bands of `CHAIN`, in index order (44_channel.md R259). -/
def runBands (P : Params) (rate : F32) :
    List BandControls → List Band → List F32 → List Band × List F32 × Bool
  | r :: rs, B :: Bs, w =>
    let (B1, w1, c1) := B.run P r rate w
    let (Bs1, w2, c2) := runBands P rate rs Bs w1
    (B1 :: Bs1, w2, c1 || c2)
  | _, Bs, w => (Bs, w, false)

/-- `CHAIN(c, W, k)` (44_channel.md R259): the new record, the samples, and whether any coefficient
was recomputed. -/
def Chan.chain (P : Params) (r : Controls) (rate : F32) (x : Chan) (w : List F32) :
    Chan × List F32 × Bool :=
  let (hp, w1) := x.hp.run P .hp r.hp rate w
  let (lp, w2) := x.lp.run P .lp r.lp rate w1
  let (bands, w3, c3) := runBands P rate r.bands x.bands w2
  let (ls, w4, c4) := x.ls.run P .low r.ls rate w3
  let (hs, w5, c5) := x.hs.run P .high r.hs rate w4
  ({ x with hp := hp, lp := lp, bands := bands, ls := ls, hs := hs }, w5, c3 || c4 || c5)

/-- The blended samples from index `j` on (44_channel.md R260). -/
def blendFrom (base step : F32) (k : Nat) : Nat → List F32 → List F32 → List F32
  | j, d :: ds, w :: ws =>
    let g := rampAt base step k j
    ((g.mul w).add ((Const.one.sub g).mul d)) :: blendFrom base step k (j + 1) ds ws
  | _, _, _ => []

/-- `BLEND(xo, xn, D, W, k)` (44_channel.md R260, R261). -/
def blend (xo xn : Nat) (d w : List F32) : List F32 :=
  if xo = xn then w
  else
    blendFrom ((Flt.ofNat xo).div (Flt.ofNat 16)) ((Flt.ofInt ((xn : Int) - xo)).div (Flt.ofNat 16))
      w.length 0 d w

/-- `CH_SUBBLOCK` of a channel record on the samples `d` (44_channel.md R253): the new record, the
output samples and whether a coefficient was recomputed; nothing when the channel is and stays fully
off (R255). -/
def Chan.subblock (P : Params) (r : Controls) (rate : F32) (x : Chan) (d : List F32) :
    Option (Chan × List F32 × Bool) :=
  let xo := x.xf
  let xn := xfStep r.globalEn xo
  if xo = 0 ∧ xn = 0 then none
  else
    let gn := gainNext r.globalGainDb x.gs
    let (x1, w, chg) :=
      { x with xf := xn, gs := gn }.chain P r rate (gainRamp x.gs gn d)
    some (x1, blend xo xn d w, chg)

/-- `CH_SUBBLOCK(c, off, k)` on the machine (44_channel.md R253, R255, R262, R263). -/
def chSubblock (P : Params) (off k : Nat) (s : State) (c : Nat) : State :=
  match (s.chan c).subblock P s.ctl s.rateF (s.audioBlock P c off k) with
  | none => s
  | some (x, w, chg) => ((s.setChan c x).writeAudio P c off w).orChg chg

/-- One sub-block on every active channel, in index order (44_channel.md R251). -/
def subblockAll (P : Params) (s : State) (b : Nat × Nat) : State :=
  (List.range s.nchan.val).foldl (chSubblock P b.1 b.2) s

/-- The effect of `process n` on operands in range (44_channel.md R251): CHG is cleared, then the
sub-blocks run in order. -/
def processSamples (P : Params) (n : Nat) (s : State) : State :=
  (subblocks n).foldl (subblockAll P) { s with chg := false }

/-- `process N` (44_channel.md R251). A configuration with LP_AUX_SHELF is refused (42_hplp.md R210). -/
def execProcess (n : Nat) (s : State) : Result :=
  if Config.lpAuxShelf then .refused .lpAuxShelf
  else
    runCommand (s.commandError (n ≤ Config.bufMax)) (processSamples Config.params n) s

end Sys2Proof.Machine
end

