-- ==== Sys2Proof/Machine/Control.lean ====
section
/-! DEFINITION. The control commands `nop` and `init` (46_control.md). -/

namespace Sys2Proof.Machine

/-- `RATE_OK(F)` (46_control.md R322). -/
def rateOk (F : F32) : Bool := F.isFinite && F.ge Const.rateMin && F.le Const.rateMax

/-- `CH_INIT(c)` (46_control.md R323): every field of the record is set. -/
def Chan.initial (P : Params) (r : Controls) (rate : F32) : Chan where
  xf := 0
  gs := Const.one
  hp := Hplp.initial
  lp := Hplp.initial
  bands := (List.range Config.nBands).map fun i => Band.initial P (r.band i) rate
  ls := Shelf.initial P .low r.ls rate
  hs := Shelf.initial P .high r.hs rate

/-- The effect of `init nch` on operands in range (46_control.md R321, R323; 45_analyser.md R306). -/
def initialise (P : Params) (nch : Nat) (s : State) : State :=
  { s with
    rate := s.arg0
    nchan := Fin.ofNat _ nch
    ch := List.replicate Config.nChanMax (Chan.initial P s.ctl s.arg0F)
    an := s.an.initial P s.arg0F
    chg := false
    initDone := true }

/-- `nop` (46_control.md R320). -/
def execNop (s : State) : Result := .next s

/-- `init NCH` (46_control.md R321): valid before INIT_DONE is set, so it has no NOT_INIT. -/
def execInit (nch : Nat) (s : State) : Result :=
  runCommand
    (if 1 ≤ nch ∧ nch ≤ Config.nChanMax ∧ rateOk s.arg0F then none else some .badOperand)
    (initialise Config.params nch) s

end Sys2Proof.Machine
end

