-- ==== Sys2Proof/Machine/Dispatch.lean ====
section
/-! DEFINITION. One arm per command (30_encoding.md R115). -/

namespace Sys2Proof.Machine

def exec (i : Instr) (s : State) : Host.Outcome State Fault Refusal :=
  match i with
  | .nop => Sys2Proof.Machine.execNop s
  | .init nch => Sys2Proof.Machine.execInit nch s
  | .process n => Sys2Proof.Machine.execProcess n s
  | .anWrite c n => Sys2Proof.Machine.execAnWrite c n s
  | .anSkip n => Sys2Proof.Machine.execAnSkip n s
  | .anSetlen n => Sys2Proof.Machine.execAnSetlen n s
  | .anSetwarp => Sys2Proof.Machine.execAnSetwarp s
  | .anSetspeed => Sys2Proof.Machine.execAnSetspeed s
  | .anClrpeak => Sys2Proof.Machine.execAnClrpeak s
  | .respBand b c => Sys2Proof.Machine.execRespBand b c s
  | .respLs c => Sys2Proof.Machine.execRespLs c s
  | .respHs c => Sys2Proof.Machine.execRespHs c s

end Sys2Proof.Machine
end

