-- ==== Sys2Proof/Machine/Step.lean ====
section
/-! DEFINITION. One step of the machine: the next access of the host (10_state.md R48; 20_memory.md
R94, R95). -/

namespace Sys2Proof.Machine

/-- `execute(w)` (30_encoding.md R123): a word that is no command raises ILLEGAL_CMD; the checks of
NOT_INIT and of the operands are each meaning's own. -/
def execute (w : Word) (s : State) : Host.Outcome State Fault Refusal :=
  match decode w with
  | .ok i => exec i s
  | .error _ => .next (s.raise .illegalCmd)

/-- One host access: a read, a write, or a write to CMD, which executes a command to completion
(20_memory.md R85, R95). When the host issues nothing the machine keeps its state (60_exceptions.md
R356; log entry 1). -/
def step (s : State) : Host.Outcome State Fault Refusal :=
  match s.bus with
  | [] => .next s
  | .read a :: rest => .next (busRead Config.params a { s with bus := rest })
  | .write a v :: rest =>
    if isCmd a then execute v { s with bus := rest }
    else .next (busWrite a v { s with bus := rest })

/-- `s` with a host whose next access writes the command word `w` to CMD. -/
def State.withFetchWord (s : State) (nbits w : Nat) : State :=
  { s with bus := .write (BitVec.ofNat 32 IfaceReg.cmd.addr) (BitVec.ofNat 32 (w % 2 ^ nbits)) :: s.bus }

end Sys2Proof.Machine
end

