-- ==== Sys2Proof/Machine/Assembler.lean ====
section
/-! DEFINITION. Host assembly statements and what they assemble to (30_encoding.md R119 to R121). A
host program is a list of statements; its bus accesses are what `State.bus` holds. Machine/AsmText.lean reads
them from text. -/

namespace Sys2Proof.Machine

/-- ADDR of a statement: a number, or the name of a register or of a memory word (R119). -/
inductive AsmAddr where
  | num (a : Nat)
  | name (t : Target)
  deriving DecidableEq, Repr

/-- VALUE of a statement (R119): an integer, or `f:` and the decimal `digits / 10^scale`. -/
inductive AsmValue where
  | int (n : Nat)
  | dec (neg : Bool) (digits scale : Nat)
  deriving DecidableEq, Repr

/-- A host statement (R119) or pseudo-instruction (R121). -/
inductive Stmt where
  | wr (a : AsmAddr) (v : AsmValue)
  | rd (a : AsmAddr)
  | command (i : Instr)
  | set (name : Target) (v : AsmValue)
  | clrerr
  | initRate (F : AsmValue) (nch : Nat)
  | anWarp (F : AsmValue)
  | anSpeed (F : AsmValue)
  | respBandAt (i c : Nat) (F : AsmValue)
  | respLsAt (c : Nat) (F : AsmValue)
  | respHsAt (c : Nat) (F : AsmValue)
  | word (v : AsmValue)
  deriving DecidableEq, Repr

/-- A number as a 32-bit word, refused when it does not fit. -/
def asmWord (n : Nat) : Option Word := if n < 2 ^ 32 then some (BitVec.ofNat 32 n) else none

/-- The address an ADDR names (R119). -/
def AsmAddr.word : AsmAddr → Option Word
  | .num a => asmWord a
  | .name t => asmWord t.addr

/-- The word a VALUE stands for: an `f:` value is the binary32 pattern nearest to the decimal (R119).
DESIGN CHOICE (log entry 19): a decimal halfway between two patterns takes the even one, and one from
halfway beyond the greatest finite value on takes infinity. -/
def AsmValue.word : AsmValue → Option Word
  | .int n => asmWord n
  | .dec neg digits scale => some ((Flt.ofDec digits (10 ^ scale) neg : F32).toWord 0)

/-- `wr ADDR, VALUE` (R119). -/
def asmWrite (a : AsmAddr) (v : AsmValue) : Option (List BusAccess) :=
  match a.word, v.word with
  | some x, some y => some [.write x y]
  | _, _ => none

/-- `rd ADDR` (R119). -/
def asmRead (a : AsmAddr) : Option (List BusAccess) := a.word.map fun x => [.read x]

/-- A command statement: its word written to CMD, refused when an operand does not fit its field
(R120). -/
def asmCommand (i : Instr) : Option (List BusAccess) :=
  if i.wellFormed then some [.write (BitVec.ofNat 32 IfaceReg.cmd.addr) (encode i)] else none

/-- The accesses of one statement after those of another; refused when either is. -/
def asmThen (x y : Option (List BusAccess)) : Option (List BusAccess) :=
  match x, y with
  | some a, some b => some (a ++ b)
  | _, _ => none

/-- An interface register as an ADDR. -/
def asmReg (r : IfaceReg) : AsmAddr := .name (.iface r)

/-- The bus accesses of a statement (R119, R120) or pseudo-instruction (R121). -/
def assemble : Stmt → Option (List BusAccess)
  | .wr a v => asmWrite a v
  | .rd a => asmRead a
  | .command i => asmCommand i
  | .set t v => asmWrite (.name t) v
  | .clrerr => asmWrite (asmReg .status) (.int 1)
  | .initRate F nch => asmThen (asmWrite (asmReg .arg0) F) (asmCommand (.init nch))
  | .anWarp F => asmThen (asmWrite (asmReg .arg0) F) (asmCommand .anSetwarp)
  | .anSpeed F => asmThen (asmWrite (asmReg .arg0) F) (asmCommand .anSetspeed)
  | .respBandAt i c F =>
    asmThen (asmWrite (asmReg .arg0) F)
      (asmThen (asmCommand (.respBand i c)) (asmRead (asmReg .result)))
  | .respLsAt c F =>
    asmThen (asmWrite (asmReg .arg0) F) (asmThen (asmCommand (.respLs c)) (asmRead (asmReg .result)))
  | .respHsAt c F =>
    asmThen (asmWrite (asmReg .arg0) F) (asmThen (asmCommand (.respHs c)) (asmRead (asmReg .result)))
  | .word v => asmWrite (asmReg .cmd) v

/-- The bus accesses of a host program (R119), refused when a statement is. -/
def assembleAll : List Stmt → Option (List BusAccess)
  | [] => some []
  | x :: xs => asmThen (assemble x) (assembleAll xs)

end Sys2Proof.Machine
end

