-- ==== Sys2Proof/Safety.lean ====
section
/-! DEFINITION. What the claims call a good state: the invariants of 10_state.md R63, the shapes that
the records keep, and the words in which claims about arithmetic are made. -/

namespace Sys2Proof.Machine

/-- The analyser part of 10_state.md R63, and that every buffer has its full size (20_memory.md
R100). -/
structure Analyser.Ok (a : Analyser) : Prop where
  len_pow : ∃ k, a.len = 2 ^ k
  len_min : Config.fftMin ≤ a.len
  len_max : a.len ≤ Config.fftMax
  wr_lt : a.wr < Config.ipSize
  pend_lt : a.pend < a.len / 2
  wfact_le : (F32.ofWord a.wfact).abs.le Const.warpMax = true
  speed_ge : (F32.ofWord a.speed).ge Const.speedMin = true
  speed_le : (F32.ofWord a.speed).le Const.speedMax = true
  ipbuf_length : a.ipbuf.length = Config.ipSize
  warpst_length : a.warpst.length = Config.fftMax
  power_length : a.power.length = Config.fftMax / 2 + 1
  peak_length : a.peak.length = Config.fftMax / 2 + 1

/-- The channel part of 10_state.md R63, and that a channel has N_BANDS bands (R50). -/
structure Chan.Ok (x : Chan) : Prop where
  xf_le : x.xf ≤ Config.xfSteps
  bands_length : x.bands.length = Config.nBands

/-- The invariant of the machine: 10_state.md R63, the sizes of the records (R50, 20_memory.md R100),
that memory is in canonical form and lists AUDIO addresses only (20_memory.md R81, R86). -/
structure State.Inv (s : State) : Prop where
  ch_length : s.ch.length = Config.nChanMax
  ch_ok : ∀ x ∈ s.ch, x.Ok
  an_ok : s.an.Ok
  bands_length : s.ctl.bands.length = Config.nBands
  mem_wf : s.mem.wf
  mem_audio : ∀ e ∈ s.mem, audioAddr 0 0 ≤ e.1 ∧ e.1 < audioAddr Config.nChanMax 0

/-- The facts that link the status bits, the rate and the traces. -/
structure State.Consistent (s : State) : Prop where
  /-- CAUSE is NONE exactly when ERR is 0 (10_state.md R32). -/
  cause_iff : s.err = false ↔ s.cause = .none
  /-- After `init` there is a valid rate and at least one channel (R36, R37; 46_control.md R322). -/
  rate_set : s.initDone = true → rateOk s.rateF = true ∧ 1 ≤ s.nchan.val
  /-- Trace entries above L/2 are +0.0 (20_memory.md R84). -/
  tail_zero : ∀ k, s.an.len / 2 < k → s.an.power.getD k 0 = 0 ∧ s.an.peak.getD k 0 = 0
  /-- PMAX never becomes NaN (45_analyser.md R295). -/
  pmax_number : (F32.ofWord s.an.pmax).isNan = false
  /-- A NaN never enters PEAK (45_analyser.md R296). -/
  peak_number : ∀ p ∈ s.an.peak, (F32.ofWord p).isNan = false

/-- Every smoothed global gain is positive (10_state.md R52, R63). -/
def State.GainsPositive (s : State) : Prop := ∀ x ∈ s.ch, x.gs.gt Const.zero = true

/-- The engage factor lies in [0, 1] and the resonance in [0, RES_LP(RES_MAX)] (10_state.md R63). -/
def Hplp.InRange (F : Hplp) : Prop :=
  F.g.ge Const.zero = true ∧ F.g.le Const.one = true ∧
    F.q.ge Const.zero = true ∧ F.q.le (Const.resLp Const.resMax) = true

/-- Every HP and LP section is in range (10_state.md R63). -/
def State.SectionsInRange (s : State) : Prop := ∀ x ∈ s.ch, x.hp.InRange ∧ x.lp.InRange

/-- What the range of the pole coefficients takes of NUM.exp (10_state.md R63; 00_scope.md R20): on the
operands up to 0 it lies in [0, 1] and never falls. -/
structure ExpDecays (N : Num) : Prop where
  unit : ∀ x : F64, x.le Const.zero = true →
    Const.zero.le (N.exp x) = true ∧ (N.exp x).le Const.one = true
  mono : ∀ x y : F64, x.le y = true → y.le Const.zero = true → (N.exp x).le (N.exp y) = true

/-- The pole coefficient lies in [to32(1 - exp(-2 pi FR_MIN)), 1] (10_state.md R63). -/
def Hplp.PoleInRange (P : Params) (F : Hplp) : Prop :=
  (poleOf P Const.frMin).le F.p = true ∧ F.p.le Const.one = true

/-- After `init` every HP and LP pole coefficient is in range (10_state.md R63). -/
def State.PolesInRange (P : Params) (s : State) : Prop :=
  s.initDone = true → ∀ x ∈ s.ch, x.hp.PoleInRange P ∧ x.lp.PoleInRange P

/-- The all-pass difference `x - ap` of a lattice section (41_band.md R175). -/
def allpassDiff (s2 zo x : F32) : F32 := x.sub (zo.add (s2.mul (x.sub (s2.mul zo))))

/-- Both sections' all-pass differences are finite on every sample of a block (41_band.md R175, R176). -/
def Band.DiffsFinite : Band → List F32 → Prop
  | _, [] => True
  | B, x :: xs =>
    (allpassDiff B.s2 B.z1 x).isFinite = true ∧
      (allpassDiff B.s2 B.z3 (latticeSection B.s1 B.s2 B.a B.z0 B.z1 x).2.2).isFinite = true ∧
      Band.DiffsFinite (B.sample x).1 xs

/-- Exact arithmetic. -/
noncomputable def Arith.exact : Arith ℝ where
  one := 1
  two := 2
  neg := fun x => -x
  add := fun x y => x + y
  sub := fun x y => x - y
  mul := fun x y => x * y
  div := fun x y => x / y
  sqrt := Real.sqrt

/-- The block's own coefficient formulas (40_shelf.md R144 to R146) in exact arithmetic, at amplitude
`A`, angle `w0` and quality `Q`. -/
noncomputable def exactShelf (which : ShelfKind) (A w0 Q : ℝ) : RawBiquad ℝ :=
  rawBiquad .exact which A (Real.cos w0) (shelfAlpha .exact (Real.sin w0) Q)

/-- The magnitude in dB of a normalised transfer function at angle `w` (40_shelf.md R153), exactly. -/
noncomputable def Biquad.exactDb (c : Biquad ℝ) (w : ℝ) : ℝ :=
  let e1 := Complex.exp (-(w * Complex.I))
  let e2 := e1 * e1
  10 * Real.logb 10 (Complex.normSq (c.b0 + c.b1 * e1 + c.b2 * e2) /
    Complex.normSq (1 + c.a1 * e1 + c.a2 * e2))

/-- The coefficients of a shelf of `G` dB: A = 10^(G/40) (40_shelf.md R144), exactly. -/
noncomputable def exactShelfDb (which : ShelfKind) (G w0 Q : ℝ) : Biquad ℝ :=
  (exactShelf which ((10 : ℝ) ^ (G / 40)) w0 Q).normalised .exact

/-- The samples that wait for a pass, oldest first (45_analyser.md R282, R283). -/
def Analyser.pending (a : Analyser) : List F32 :=
  (List.range a.pend).map fun j => F32.ofWord (a.ipbuf.getD ((a.wr + 8192 - a.pend + j) % 8192) 0)

/-- True of a number whose last significand bit is 0. -/
def evenMag {f : Fmt} : Flt f → Bool
  | .nan => false
  | .num _ m => m.val % 2 == 0

/-- `r` is the exact value `x` rounded once to nearest, ties to even (00_scope.md R12): no finite value
is closer, of two equally close ones it is the even one, a magnitude from `overflowBound` on gives
infinity, and the sign is that of `x`. It says nothing of the sign of an exact zero. -/
def Rounded {f : Fmt} (x : Rat) (r : Flt f) : Prop :=
  (x ≠ 0 → r.sign = decide (x < 0)) ∧
    if |x| < overflowBound f then
      r.isFinite = true ∧ ∀ v : Flt f, v.isFinite = true → v.toRat ≠ r.toRat →
        |r.toRat - x| < |v.toRat - x| ∨ (|r.toRat - x| = |v.toRat - x| ∧ evenMag r = true)
    else r.isInf = true

/-- The two formats of 00_scope.md R12. -/
def IsFormat (f : Fmt) : Prop := f = Fmt.b32 ∨ f = Fmt.b64

/-- The operands of the command are in the range of its rule (60_exceptions.md R341). -/
def InRange (s : State) : Instr → Prop
  | .init nch => 1 ≤ nch ∧ nch ≤ Config.nChanMax ∧ rateOk s.arg0F = true
  | .process n => n ≤ Config.bufMax
  | .anWrite c n => c < s.nchan.val ∧ n ≤ Config.bufMax
  | .respBand i c => i < Config.nBands ∧ c < s.nchan.val
  | .respLs c | .respHs c => c < s.nchan.val
  | .nop | .anSkip _ | .anSetlen _ | .anSetwarp | .anSetspeed | .anClrpeak => True

/-- True of the two commands that run before `init` (60_exceptions.md R345). -/
def runsBeforeInit : Instr → Bool
  | .nop | .init _ => true
  | .process _ | .anWrite _ _ | .anSkip _ | .anSetlen _ | .anSetwarp | .anSetspeed | .anClrpeak
  | .respBand _ _ | .respLs _ | .respHs _ => false

/-- True of the analyser's commands (45_analyser.md). -/
def isAnalyser : Instr → Bool
  | .anWrite _ _ | .anSkip _ | .anSetlen _ | .anSetwarp | .anSetspeed | .anClrpeak => true
  | .nop | .init _ | .process _ | .respBand _ _ | .respLs _ | .respHs _ => false

/-- True of the response commands. -/
def isResp : Instr → Bool
  | .respBand _ _ | .respLs _ | .respHs _ => true
  | .nop | .init _ | .process _ | .anWrite _ _ | .anSkip _ | .anSetlen _ | .anSetwarp | .anSetspeed
  | .anClrpeak => false

/-- True of `init`. -/
def isInit : Instr → Bool
  | .init _ => true
  | .nop | .process _ | .anWrite _ _ | .anSkip _ | .anSetlen _ | .anSetwarp | .anSetspeed | .anClrpeak
  | .respBand _ _ | .respLs _ | .respHs _ => false

/-- True of `process`. -/
def isProcess : Instr → Bool
  | .process _ => true
  | .nop | .init _ | .anWrite _ _ | .anSkip _ | .anSetlen _ | .anSetwarp | .anSetspeed | .anClrpeak
  | .respBand _ _ | .respLs _ | .respHs _ => false

/-- One channel alone: its sub-blocks run in order on their samples. Gives the record after them, the
samples after them, and whether a coefficient was recomputed (44_channel.md R251, R253). -/
def Chan.runBlocks (P : Params) (r : Controls) (rate : F32) :
    Chan → List (List F32) → Chan × List F32 × Bool
  | x, [] => (x, [], false)
  | x, d :: ds =>
    match x.subblock P r rate d with
    | none =>
      let (y, w, b) := Chan.runBlocks P r rate x ds
      (y, d ++ w, b)
    | some (x1, w1, b1) =>
      let (y, w, b) := Chan.runBlocks P r rate x1 ds
      (y, w1 ++ w, b1 || b)

/-- What `process n` makes of channel `c` (44_channel.md R251, R264). -/
def State.processed (P : Params) (s : State) (c n : Nat) : Chan × List F32 × Bool :=
  Chan.runBlocks P s.ctl s.rateF (s.chan c) ((subblocks n).map fun b => s.audioBlock P c b.1 b.2)

/-- The bus address of CMD (10_state.md R33). -/
def cmdAddr : Word := BitVec.ofNat 32 IfaceReg.cmd.addr

/-- The targets that exist: four bands, 4097 trace entries, two channels of 8192 words (20_memory.md
R81, R84, R86). -/
def Target.Mapped : Target → Prop
  | .iface _ => True
  | .ctl (.bandEn i) | .ctl (.bandFreq i) | .ctl (.bandBw i) | .ctl (.bandGainDb i) => i < Config.nBands
  | .ctl _ => True
  | .power k | .peak k => k ≤ Config.fftMax / 2
  | .audio c j => c < Config.nChanMax ∧ j < Config.bufMax

/-- The bus address of STATUS (10_state.md R32). -/
def statusAddr : Word := BitVec.ofNat 32 IfaceReg.status.addr

/-- True of the parameter registers that hold one bit (10_state.md R43). -/
def CtlReg.isEnable : CtlReg → Bool
  | .globalEn | .hpEn | .lpEn | .lsEn | .hsEn | .bandEn _ | .anPhold => true
  | .globalGainDb | .hpFreq | .hpRes | .lpFreq | .lpRes | .lsFreq | .lsQ | .lsGainDb | .hsFreq | .hsQ
  | .hsGainDb | .bandFreq _ | .bandBw _ | .bandGainDb _ => false

end Sys2Proof.Machine
end

