-- ==== Sys2Proof/Certificates/Slice0/Obligations.lean ====
section
/-! DEFINITION. The statements for the provers. Each docstring names the rules of spec/ it formalises and
any model choice (log entry) it rests on. -/

open Sys2Proof Sys2Proof.Machine

/-! ## Encoding (30_encoding.md) -/

/-- R110, R115, R120: the decoder gives back every well-formed command, with every operand. -/
def Obligations.DecodeReadsBackEncode : Prop :=
  ∀ i : Instr, i.wellFormed = true → decode (encode i) = .ok i

/-- R110, R115, R116, R120: a word that decodes is the word of its command, so no bit of it is ignored. -/
def Obligations.EncodeReadsBackDecode : Prop :=
  ∀ (w : Word) (i : Instr), decode w = .ok i → encode i = w ∧ i.wellFormed = true

/-- R115, R123: the decoder picks the row whose mask and match columns select the word. -/
def Obligations.DecoderFollowsMatchAndMask : Prop :=
  ∀ (w : Word) (i : Instr),
    (decode w = .ok i → w &&& i.matchMask.2 = i.matchMask.1) ∧
      (w &&& i.matchMask.2 = i.matchMask.1 → ∃ j, decode w = .ok j ∧ j.matchMask = i.matchMask)

/-- R122: the encoding examples and the illegal words. -/
def Obligations.EncodingExamples : Prop :=
  (∀ e ∈ ([(.init 2, 0x01200000), (.process 40, 0x10000028), (.anWrite 1 8, 0x20100008),
      (.anSetlen 16, 0x22000010), (.respBand 3 0, 0x30300000), (.respHs 1, 0x32000001)] :
      List (Instr × Word)), encode e.1 = e.2 ∧ decode e.2 = .ok e.1) ∧
    ∀ s : State, ∀ w ∈ [(0x10100020 : Word), 0x02000000, 0x01000001],
      execute w s = .next { s with err := true, cause := .illegalCmd }

/-- R116, R117, R123: a word no row selects records ILLEGAL_CMD and does nothing else. -/
def Obligations.IllegalWordOnlyRecordsTheError : Prop :=
  ∀ (s : State) (w : Word) (rest : List BusAccess), s.bus = .write cmdAddr w :: rest →
    (∀ i : Instr, w &&& i.matchMask.2 ≠ i.matchMask.1) →
      step s = .next { s with bus := rest, err := true, cause := .illegalCmd }

/-- R119, R121: each pseudo-instruction is its expansion. -/
def Obligations.PseudoInstructionsExpand : Prop :=
  (∀ (t : Target) (v : AsmValue), assemble (.set t v) = assemble (.wr (.name t) v)) ∧
    assemble .clrerr = some [.write 0x004 1] ∧
    (∀ v : AsmValue, assemble (.word v) = assemble (.wr (.num 0x008) v)) ∧
    ∀ (F : AsmValue) (p : Word), F.word = some p →
      (∀ nch, nch < 16 → assemble (.initRate F nch) =
        some [.write 0x00C p, .write 0x008 (BitVec.ofNat 32 (0x01000000 + nch * 2 ^ 20))]) ∧
      assemble (.anWarp F) = some [.write 0x00C p, .write 0x008 0x23000000] ∧
      assemble (.anSpeed F) = some [.write 0x00C p, .write 0x008 0x24000000] ∧
      ∀ i c, i < 16 → c < 2 ^ 20 →
        assemble (.respBandAt i c F) = some [.write 0x00C p,
          .write 0x008 (BitVec.ofNat 32 (0x30000000 + i * 2 ^ 20 + c)), .read 0x010] ∧
        assemble (.respLsAt c F) = some [.write 0x00C p,
          .write 0x008 (BitVec.ofNat 32 (0x31000000 + c)), .read 0x010] ∧
        assemble (.respHsAt c F) = some [.write 0x00C p,
          .write 0x008 (BitVec.ofNat 32 (0x32000000 + c)), .read 0x010]

/-! ## Steps and the bus (20_memory.md) -/

/-- R33, R123: a write to CMD runs the decoded command, with the access taken from the host's list (log
entry 1); `withFetchWord` places exactly such an access. -/
def Obligations.StepRunsTheDecodedCommand : Prop :=
  (∀ (s : State) (w : Word) (rest : List BusAccess) (i : Instr),
    s.bus = .write cmdAddr w :: rest → decode w = .ok i → step s = exec i { s with bus := rest }) ∧
  ∀ (s : State) (i : Instr), i.wellFormed = true →
    step (s.withFetchWord 32 (encode i).toNat) = exec i s

/-- R346, R357, R382: every step ends in a next state. -/
def Obligations.StepNeverStops : Prop := ∀ s : State, ∃ t, step s = .next t

/-- R81, R82, R84, R86 and the address table of R45: the address map, in both directions. -/
def Obligations.LocateIsTheAddressMap : Prop :=
  ∀ (a : Word) (t : Target), locate a = some t ↔ t.Mapped ∧ t.addr = a.toNat

/-- R85, R88, R90: a misaligned or unmapped access records BUS_FAULT and changes nothing else. That the
word read is held in `rdata` is the model's choice (log entry 2). -/
def Obligations.BadAddressOnlyRecordsBusFault : Prop :=
  ∀ (s : State) (a v : Word) (rest : List BusAccess),
    (a.toNat % 4 ≠ 0 ∨ ∀ t : Target, t.Mapped → t.addr ≠ a.toNat) →
      (s.bus = .read a :: rest →
        step s = .next { s with bus := rest, err := true, cause := .busFault, rdata := 0 }) ∧
      (s.bus = .write a v :: rest →
        step s = .next { s with bus := rest, err := true, cause := .busFault })

/-- R91: a write to a read-only register or a trace view records BUS_FAULT and changes nothing else. -/
def Obligations.ReadOnlyWriteOnlyRecordsBusFault : Prop :=
  ∀ (s : State) (a v : Word) (rest : List BusAccess) (t : Target), t.Mapped → t.addr = a.toNat →
    ((∃ r ∈ [IfaceReg.id, .result, .rate, .nchan, .hwcfg, .anFftlen, .anWarp, .anSpeed, .anPmax],
        t = .iface r) ∨ ∃ k, t = .power k ∨ t = .peak k) →
      s.bus = .write a v :: rest →
        step s = .next { s with bus := rest, err := true, cause := .busFault }

/-- R31 to R44, R84 to R87, R92: a read of a mapped word answers it (in `rdata`, log entry 2) and has no
side effect. ID and HWCFG are constants, CMD reads 0, STATUS holds the flags at their bits, every other
register and trace entry is the state it is a view of, and an AUDIO word is its four bytes, little-endian
(log entry 9). -/
def Obligations.ReadsAnswerTheWord : Prop :=
  ∀ (s : State) (a : Word) (rest : List BusAccess) (t : Target), t.Mapped → t.addr = a.toNat →
    s.bus = .read a :: rest →
      let r := s.readTarget Config.params t
      step s = .next { s with bus := rest, rdata := r } ∧
      (t = .iface .status → r.toNat =
        s.err.toNat + 2 * s.chg.toNat + 4 * s.an.valid.toNat + 8 * s.initDone.toNat +
          256 * (match s.cause with
            | .none => 0 | .illegalCmd => 1 | .notInit => 2 | .badOperand => 3 | .busFault => 4)) ∧
      (∀ e ∈ ([(.id, 0x46494C34), (.cmd, 0), (.arg0, s.arg0), (.result, s.result), (.rate, s.rate),
          (.nchan, BitVec.ofNat 32 s.nchan.val), (.hwcfg, 0x000D0D24),
          (.anFftlen, BitVec.ofNat 32 s.an.len), (.anWarp, s.an.wfact), (.anSpeed, s.an.speed),
          (.anPmax, s.an.pmax)] : List (IfaceReg × Word)), t = .iface e.1 → r = e.2) ∧
      (∀ e ∈ ([(.globalEn, s.ctl.globalEn), (.hpEn, s.ctl.hp.en), (.lpEn, s.ctl.lp.en),
          (.lsEn, s.ctl.ls.en), (.hsEn, s.ctl.hs.en), (.anPhold, s.ctl.anPhold)] :
          List (CtlReg × Bool)), t = .ctl e.1 → r.toNat = e.2.toNat) ∧
      (∀ e ∈ ([(.globalGainDb, s.ctl.globalGainDb), (.hpFreq, s.ctl.hp.freq), (.hpRes, s.ctl.hp.res),
          (.lpFreq, s.ctl.lp.freq), (.lpRes, s.ctl.lp.res), (.lsFreq, s.ctl.ls.freq),
          (.lsQ, s.ctl.ls.q), (.lsGainDb, s.ctl.ls.gainDb), (.hsFreq, s.ctl.hs.freq),
          (.hsQ, s.ctl.hs.q), (.hsGainDb, s.ctl.hs.gainDb)] :
          List (CtlReg × Word)), t = .ctl e.1 → r = e.2) ∧
      (∀ i b, s.ctl.bands[i]? = some b → (t = .ctl (.bandEn i) → r.toNat = b.en.toNat) ∧
        (t = .ctl (.bandFreq i) → r = b.freq) ∧ (t = .ctl (.bandBw i) → r = b.bw) ∧
        (t = .ctl (.bandGainDb i) → r = b.gainDb)) ∧
      (∀ k w, (s.an.power[k]? = some w → t = .power k → r = w) ∧
        (s.an.peak[k]? = some w → t = .peak k → r = w)) ∧
      ∀ c j k, t = .audio c j → k < 4 →
        r.extractLsb' (8 * k) 8 = s.mem.byteAt Config.params (audioAddr c j + k)

/-- R43, R44, R85, R86, R87: a write to ARG0, a parameter register or an AUDIO word stores the word (an
enable its bit 0); every other mapped word reads as before, and nothing else changes. The
stored word's bytes lie little-endian (log entry 9). -/
def Obligations.WritesStoreTheWord : Prop :=
  ∀ (s : State) (a v : Word) (rest : List BusAccess) (t : Target), s.Inv → t.Mapped →
    t.addr = a.toNat → (t = .iface .arg0 ∨ (∃ r, t = .ctl r) ∨ ∃ c j, t = .audio c j) →
    s.bus = .write a v :: rest →
      ∃ s', step s = .next s' ∧
        s' = { s with bus := rest, arg0 := s'.arg0, ctl := s'.ctl, mem := s'.mem } ∧
        (∀ (P : Params) (u : Target), u.Mapped → s'.readTarget P u =
          if u = t then (match t with | .ctl r => if r.isEnable then v &&& 1 else v | _ => v)
          else s.readTarget P u) ∧
        (∀ (P : Params) (b : Nat),
          (∀ c j, t = .audio c j → b < audioAddr c j ∨ audioAddr c j + 4 ≤ b) →
            s'.mem.byteAt P b = s.mem.byteAt P b) ∧
        ∀ (P : Params) (c j k : Nat), t = .audio c j → k < 4 →
          s'.mem.byteAt P (audioAddr c j + k) = v.extractLsb' (8 * k) 8

/-! ## Errors and flags (60_exceptions.md) -/

/-- R344: the host's write to STATUS. -/
def Obligations.StatusWriteClearsTheError : Prop :=
  (∀ (s : State) (v : Word) (rest : List BusAccess), s.bus = .write statusAddr v :: rest →
    (v.getLsbD 0 = true → step s = .next { s with bus := rest, err := false, cause := .none }) ∧
    (v.getLsbD 0 = false → step s = .next { s with bus := rest }) ∧
    (s.Consistent → s.err = false → step s = .next { s with bus := rest })) ∧
  ∀ (i : Instr) (s t : State), exec i s = .next t → s.err = true → t.err = true

/-- R343: ERR stays 1 until the host clears it, and CAUSE then is that of the last error. -/
def Obligations.ErrIsSticky : Prop :=
  ∀ s t : State, step s = .next t → s.err = true →
    (∀ v rest, s.bus = .write statusAddr v :: rest → v.getLsbD 0 = false) →
      t.err = true ∧ (t.cause = s.cause ∨ t.cause ≠ .none)

/-- R123, R341, R342, R345, R346: before `init`, every command but `nop` and `init` records NOT_INIT
whatever its operands; then an operand out of range records BAD_OPERAND. Nothing else changes. -/
def Obligations.ErrorsAreReportedInOrder : Prop :=
  (∀ (i : Instr) (s : State), s.initDone = false → runsBeforeInit i = false →
    exec i s = .next { s with err := true, cause := .notInit }) ∧
  ∀ (i : Instr) (s : State), (s.initDone = true ∨ runsBeforeInit i = true) → ¬ InRange s i →
    exec i s = .next { s with err := true, cause := .badOperand }

/-- R343, R346: a command without an error completes and leaves ERR and CAUSE alone. -/
def Obligations.SuccessKeepsErrAndCause : Prop :=
  ∀ (i : Instr) (s : State), (s.initDone = true ∨ runsBeforeInit i = true) → InRange s i →
    ∃ t, exec i s = .next t ∧ t.err = s.err ∧ t.cause = s.cause

/-- R34, R45, R48: no command writes ARG0 or a parameter register, and a step takes one access from the
host (log entry 1). -/
def Obligations.NoCommandWritesTheHostsRegisters : Prop :=
  (∀ (i : Instr) (s t : State), exec i s = .next t →
    t.arg0 = s.arg0 ∧ t.ctl = s.ctl ∧ t.bus = s.bus ∧ t.rdata = s.rdata) ∧
  ∀ s t : State, step s = .next t → t.bus = s.bus.tail

/-- R35, R36, R37, R86, R378: which commands may change RESULT, RATE, NCHAN, AUDIO, the channel records
and the analyser. -/
def Obligations.EachCommandWritesOnlyItsOwnState : Prop :=
  ∀ (i : Instr) (s t : State), exec i s = .next t →
    (isResp i = false → t.result = s.result) ∧
    (isInit i = false → t.rate = s.rate ∧ t.nchan = s.nchan) ∧
    (isProcess i = false → t.mem = s.mem) ∧
    (isProcess i = false → isInit i = false → t.ch = s.ch) ∧
    (isAnalyser i = false → isInit i = false → t.an = s.an)

/-- R49, R262, R297: the flags change only as the list of R49 says. -/
def Obligations.FlagsChangeOnlyAsListed : Prop :=
  ∀ (i : Instr) (s t : State), exec i s = .next t →
    (t.chg ≠ s.chg → isProcess i = true ∨ (isInit i = true ∧ t.chg = false)) ∧
    (s.an.valid = false → t.an.valid = true → ∃ c n, i = .anWrite c n) ∧
    (s.an.valid = true → t.an.valid = false →
      (∃ n, i = .anSkip n) ∨ (∃ n, i = .anSetlen n) ∨ i = .anSetwarp ∨ isInit i = true) ∧
    (s.initDone = true → t.initDone = true) ∧
    (s.initDone = false → t.initDone = true → isInit i = true)

/-! ## Control commands (46_control.md) -/

/-- R320: `nop` is the word 0 exactly and has no effect. -/
def Obligations.NopDoesNothing : Prop :=
  encode .nop = 0x00000000 ∧ decode 0x00000000 = .ok .nop ∧
    (∀ s : State, exec .nop s = .next s) ∧
    ∀ (w : Word) (s : State), w.opc = 0 → w ≠ 0x00000000 →
      execute w s = .next { s with err := true, cause := .illegalCmd }

/-- R321, R323, R66, R155, R179, R209, R306: what a successful `init` sets, and that it sets nothing
else. -/
def Obligations.InitSetsTheMachine : Prop :=
  ∀ (s : State) (nch : Nat), 1 ≤ nch → nch ≤ 2 → rateOk s.arg0F = true →
    ∃ t, exec (.init nch) s = .next t ∧
      t = { s with
        rate := s.arg0, nchan := t.nchan, ch := t.ch, an := t.an, chg := false, initDone := true } ∧
      t.nchan.val = nch ∧ t.ch.length = 2 ∧
      (∀ x ∈ t.ch, x.xf = 0 ∧ x.gs = f32One ∧
        x.hp = ⟨f32One, f32Zero, f32Zero, f32Zero, f32Zero⟩ ∧
        x.lp = ⟨f32One, f32Zero, f32Zero, f32Zero, f32Zero⟩ ∧
        x.bands.length = 4 ∧
        (∀ i, i < 4 → let B := x.band i
          (B.fr, B.bw, B.gl) = bandTargets Config.params (s.ctl.band i) s.arg0F ∧
          (B.frU, B.bwU, B.glU) = (B.fr, B.bw, B.gl) ∧ B.coeffs Config.params = B ∧
          B.z0 = f32Zero ∧ B.z1 = f32Zero ∧ B.z2 = f32Zero ∧ B.z3 = f32Zero) ∧
        ∀ S which r, ((S, which, r) = (x.ls, ShelfKind.low, s.ctl.ls) ∨
            (S, which, r) = (x.hs, ShelfKind.high, s.ctl.hs)) →
          (S.fr, S.qv, S.gdb) = shelfTargets r s.arg0F ∧
          (S.frU, S.qvU, S.gdbU) = (S.fr, S.qv, S.gdb) ∧ S.coeffs Config.params which = S ∧
          S.z1 = f64Zero ∧ S.z2 = f64Zero) ∧
      t.an = { s.an with
        asm := asmOf Config.params s.an.len s.arg0F (F32.ofWord s.an.speed)
        ipbuf := List.replicate 8192 0, wr := 0, pend := 0
        warpst := List.replicate 8192 f32Zero
        power := List.replicate 4097 0, peak := List.replicate 4097 0, pmax := 0, valid := false }

/-- R322: `init` accepts exactly the finite rates from 8000 to 384000. -/
def Obligations.InitAcceptsExactlyTheValidRates : Prop :=
  ∀ (s : State) (nch : Nat), 1 ≤ nch → nch ≤ 2 →
    (s.arg0F.isFinite = true ∧ 8000 ≤ s.arg0F.toRat ∧ s.arg0F.toRat ≤ 384000 →
      ∃ t, exec (.init nch) s = .next t ∧ t.rate = s.arg0 ∧ t.initDone = true) ∧
    (¬ (s.arg0F.isFinite = true ∧ 8000 ≤ s.arg0F.toRat ∧ s.arg0F.toRat ≤ 384000) →
      exec (.init nch) s = .next { s with err := true, cause := .badOperand })

/-! ## `process` (44_channel.md) -/

/-- R86, R251, R263: `process n` completes; only the active channels' records, CHG and AUDIO[c][0..n-1]
of the active channels change (and the draw counter, log entry 3). -/
def Obligations.ProcessFrame : Prop :=
  ∀ (s : State) (n : Nat), s.initDone = true → n ≤ 8192 →
    ∃ t, exec (.process n) s = .next t ∧
      t = { s with ch := t.ch, mem := t.mem, chg := t.chg, draws := t.draws } ∧
      (∀ c, s.nchan.val ≤ c → t.chan c = s.chan c) ∧
      ∀ (P : Params) (a : Nat),
        (∀ c j, c < s.nchan.val → j < n → a < audioAddr c j ∨ audioAddr c j + 4 ≤ a) →
          t.mem.byteAt P a = s.mem.byteAt P a

/-- R251, R253, R262, R264: `process n` does to each active channel what its own sub-blocks in order do,
whatever the other channel holds, and CHG says whether any coefficient was recomputed. -/
def Obligations.ProcessRunsEachChannelsSubblocks : Prop :=
  ∀ (s : State) (n : Nat), s.Inv → s.initDone = true → n ≤ 8192 →
    ∃ t, exec (.process n) s = .next t ∧
      (∀ c, c < s.nchan.val →
        t.chan c = (s.processed Config.params c n).1 ∧
        t.audioBlock Config.params c 0 n = (s.processed Config.params c n).2.1) ∧
      t.chg = (List.range s.nchan.val).any fun c => (s.processed Config.params c n).2.2

/-- R264: nothing of one channel reaches another: two machines that agree on the registers, the rate and
one active channel's record and samples agree on them after `process n`. -/
def Obligations.ChannelsDoNotInterfere : Prop :=
  ∀ (s u : State) (n c : Nat), s.Inv → u.Inv → s.initDone = true → u.initDone = true → n ≤ 8192 →
    c < s.nchan.val → c < u.nchan.val → u.ctl = s.ctl → u.rate = s.rate → u.chan c = s.chan c →
    u.audioBlock Config.params c 0 n = s.audioBlock Config.params c 0 n →
      ∃ s' u', exec (.process n) s = .next s' ∧ exec (.process n) u = .next u' ∧
        u'.chan c = s'.chan c ∧
        u'.audioBlock Config.params c 0 n = s'.audioBlock Config.params c 0 n

/-- R255, R266 item 1: with every active channel fully off and staying off, `process` only clears CHG. -/
def Obligations.FullyOffOnlyClearsChg : Prop :=
  ∀ (s : State) (n : Nat), s.initDone = true → n ≤ 8192 → s.ctl.globalEn = false →
    (∀ c, c < s.nchan.val → (s.chan c).xf = 0) →
      exec (.process n) s = .next { s with chg := false }

/-- R254: over the sub-blocks of one command the counter climbs to 16 or falls to 0, one a sub-block. -/
def Obligations.CrossfadeCounterMoves : Prop :=
  ∀ (s : State) (n c : Nat), s.Inv → s.initDone = true → n ≤ 8192 → c < s.nchan.val →
    ∃ t, exec (.process n) s = .next t ∧
      (s.ctl.globalEn = true → (t.chan c).xf = min 16 ((s.chan c).xf + (subblocks n).length)) ∧
      (s.ctl.globalEn = false → (t.chan c).xf = (s.chan c).xf - (subblocks n).length)

/-- R252: a block is cut into 32-sample sub-blocks until at most 48 samples remain, which form the last
sub-block. -/
def Obligations.SubblocksTileTheBlock : Prop :=
  (∀ rem, subblockLen rem = if rem > 48 then 32 else rem) ∧
  (∀ n, (∀ b ∈ subblocks n, 1 ≤ b.2 ∧ b.2 ≤ 48) ∧
    (∀ i b, (subblocks n)[i]? = some b → b.1 = 32 * i ∧
      (i + 1 < (subblocks n).length → b.2 = 32 ∧ n - b.1 > 48) ∧
      (i + 1 = (subblocks n).length → b.2 = n - b.1)) ∧
    ((subblocks n).map Prod.snd).sum = n) ∧
  (subblocks 100).map Prod.snd = [32, 32, 36] ∧ (subblocks 49).map Prod.snd = [32, 17]

/-- R260, R261: the blend weight arrives exactly at the new counter's sixteenth in the last sample, for
every length of a sub-block, going up and going down. -/
def Obligations.BlendWeightArrivesExactly : Prop :=
  ∀ k xo : Nat, 1 ≤ k → k ≤ 48 → xo < 16 →
    rampAt ((Flt.ofNat xo).div (Flt.ofNat 16)) ((Flt.ofInt 1).div (Flt.ofNat 16)) k (k - 1) =
      (Flt.ofNat (xo + 1)).div (Flt.ofNat 16) ∧
    rampAt ((Flt.ofNat (xo + 1)).div (Flt.ofNat 16)) ((Flt.ofInt (-1)).div (Flt.ofNat 16)) k (k - 1) =
      (Flt.ofNat xo).div (Flt.ofNat 16)

/-- R257, R266 item 3: one sub-block moves the smoothed gain by at most a quarter, whatever the gain
register holds, and to the target exactly when the target is that near. -/
def Obligations.GainStepIsLimited : Prop :=
  ∀ (w : Word) (gp : F32), gp.isFinite = true → gp.gt Const.zero = true →
    let lo := Const.gainStepLo.mul gp
    let hi := Const.gainStepHi.mul gp
    let gt := gainLin ((F32.ofWord w).clamp Const.gainDbMin Const.gainDbMax)
    lo.le (gainNext w gp) = true ∧ (gainNext w gp).le hi = true ∧
      (lo.le gt = true → gt.le hi = true → gainNext w gp = gt)

/-! ## The analyser (45_analyser.md) -/

/-- R281, R282, R283: `an.write c n` completes, appends the n words in order, wraps the write position,
counts the pending samples, and runs a pass exactly when they reach L/2; nothing but AN and the draw
counter (log entry 3) changes. -/
def Obligations.AnWriteAppendsTheSamples : Prop :=
  ∀ (s : State) (c n : Nat), s.Inv → s.initDone = true → c < s.nchan.val → n ≤ 8192 →
    ∃ t, exec (.anWrite c n) s = .next t ∧
      t = { s with an := t.an, draws := t.draws } ∧
      t.an.len = s.an.len ∧ t.an.wfact = s.an.wfact ∧ t.an.speed = s.an.speed ∧ t.an.asm = s.an.asm ∧
      t.an.wr = (s.an.wr + n) % 8192 ∧
      t.an.pend = (s.an.pend + n) % (s.an.len / 2) ∧
      t.an.valid = (s.an.valid || decide (s.an.len / 2 ≤ s.an.pend + n)) ∧
      (∀ j, j < n → t.an.ipbuf.getD ((s.an.wr + j) % 8192) 0 = s.audioWord Config.params c j) ∧
      (∀ k, (∀ j, j < n → k ≠ (s.an.wr + j) % 8192) →
        t.an.ipbuf.getD k 0 = s.an.ipbuf.getD k 0) ∧
      (s.an.pend + n < s.an.len / 2 → t.draws = s.draws ∧ t.an.warpst = s.an.warpst ∧
        t.an.power = s.an.power ∧ t.an.peak = s.an.peak ∧ t.an.pmax = s.an.pmax)

/-- R281, R282, R283, R286, R287, R289, R292, R293, R295, R296, R297: the pass that runs when the pending
samples and the n new ones make L/2 takes exactly those, oldest first, and updates the traces from the
warped line; and an `an.write` of n + m samples, whatever passes it runs, does to the analyser what one
of n and one of the m after them do (with the draw counter, log entry 3). -/
def Obligations.AnWriteRunsThePass : Prop :=
  (∀ (s : State) (c n : Nat), s.Inv → s.initDone = true → c < s.nchan.val →
    s.an.pend + n = s.an.len / 2 →
    let h := s.an.len / 2
    let line := (s.an.pending ++ s.audioBlock Config.params c 0 n).foldl
      (warpStep (F32.ofWord s.an.wfact).neg) (s.an.warpst.take s.an.len)
    let X := fftR2C Config.params line
    ∃ t, exec (.anWrite c n) s = .next t ∧ t.an.valid = true ∧ t.an.pend = 0 ∧
      t.an.warpst = line ++ s.an.warpst.drop s.an.len ∧
      (∀ k, k ≤ h →
        F32.ofWord (t.an.power.getD k 0) =
          powerUpdate s.an.asm (F32.ofWord (s.an.power.getD k 0)) (binPower Config.params X h k) ∧
        t.an.peak.getD k 0 =
          if s.ctl.anPhold = true ∧
            (F32.ofWord (t.an.power.getD k 0)).gt (F32.ofWord (s.an.peak.getD k 0)) = true
          then t.an.power.getD k 0 else s.an.peak.getD k 0) ∧
      (∀ k, h < k → t.an.power.getD k 0 = s.an.power.getD k 0 ∧
        t.an.peak.getD k 0 = s.an.peak.getD k 0) ∧
      F32.ofWord t.an.pmax =
        pmaxUpdate (F32.ofWord s.an.pmax) (t.an.power.take (h + 1))) ∧
  ∀ (s u v : State) (c n m : Nat), n + m ≤ 8192 → s.initDone = true → c < s.nchan.val →
    exec (.anWrite c n) s = .next u →
    v.initDone = true → c < v.nchan.val → v.an = u.an → v.draws = u.draws →
    v.ctl.anPhold = s.ctl.anPhold →
    (∀ j, j < m → v.audioWord Config.params c j = s.audioWord Config.params c (n + j)) →
      ∃ t w, exec (.anWrite c m) v = .next t ∧ exec (.anWrite c (n + m)) s = .next w ∧
        t.an = w.an ∧ t.draws = w.draws

/-- R305: silence on a cleared analyser gives the epsilon floor in every bin, never zero and never NaN.
The smoothing coefficient, which comes from NUM.pow, is taken to be finite; that the kernels' taps are
finite is log entry 7. -/
def Obligations.SilenceGivesTheEpsilonFloor : Prop :=
  ∀ (s : State) (c : Nat), s.Inv → s.initDone = true → c < s.nchan.val → s.an.pend = 0 →
    s.an.asm.isFinite = true → (∀ x ∈ s.an.warpst, x = f32Zero) →
    (∀ p ∈ s.an.power, p = 0) → s.an.pmax = 0 →
    (∀ j, j < s.an.len / 2 → (F32.ofWord (s.audioWord Config.params c j)).isZero = true) →
      ∃ t, exec (.anWrite c (s.an.len / 2)) s = .next t ∧ t.an.valid = true ∧
        (∀ x ∈ t.an.warpst, x.isZero = true) ∧
        (∀ k, k ≤ s.an.len / 2 →
          t.an.power.getD k 0 = (Flt.ofDec 1 (10 ^ 20) : F32).toWord 0) ∧
        t.an.pmax = (Flt.ofDec 1 (10 ^ 20) : F32).toWord 0

/-- R284: `an.skip`. -/
def Obligations.AnSkipAdvancesTheWritePosition : Prop :=
  (∀ n, n < 2 ^ 20 → decode (BitVec.ofNat 32 (0x21000000 + n)) = .ok (.anSkip n)) ∧
  (∀ (w : Word) (s : State), w.opc = 0x21 → w.sel ≠ 0 →
    execute w s = .next { s with err := true, cause := .illegalCmd }) ∧
  ∀ (s : State) (n : Nat),
    (s.initDone = false → exec (.anSkip n) s = .next { s with err := true, cause := .notInit }) ∧
    (s.initDone = true → exec (.anSkip n) s =
      .next { s with an := { s.an with wr := (s.an.wr + n) % 8192, pend := 0, valid := false } })

/-- R299: the length rule. -/
def Obligations.LengthIsTheLargestPowerOfTwo : Prop :=
  ∀ n, (∃ k, 4 ≤ k ∧ k ≤ 13 ∧ anLength n = 2 ^ k) ∧ anLength n ≤ min (max n 16) 8192 ∧
    min (max n 16) 8192 < 2 * anLength n

/-- R294, R298, R303: `an.setlen` sets the length, clears the traces and the warp line, and recomputes
ASM. -/
def Obligations.AnSetlenClearsTheTraces : Prop :=
  ∀ (s : State) (n : Nat), s.initDone = true → exec (.anSetlen n) s =
    .next { s with an := { s.an with
      len := anLength n
      asm := asmOf Config.params (anLength n) s.rateF (F32.ofWord s.an.speed)
      pend := 0, warpst := List.replicate 8192 f32Zero
      power := List.replicate 4097 0, peak := List.replicate 4097 0, pmax := 0, valid := false } }

/-- R300, R303: `an.setwarp` stores the clamped operand (0x3F7D70A4 is 0.99) and clears the traces. The
draw counter is the model's (log entry 3). -/
def Obligations.AnSetwarpStoresTheClampedFactor : Prop :=
  ∀ s : State, s.initDone = true →
    ∃ t, exec .anSetwarp s = .next t ∧
      t = { s with draws := t.draws, an := { s.an with
        wfact := t.an.wfact, warpst := List.replicate 8192 f32Zero
        power := List.replicate 4097 0, peak := List.replicate 4097 0, pmax := 0, valid := false } } ∧
      t.an.wfact =
        if s.arg0F.isNan = true ∨ s.arg0F.lt (F32.ofWord 0xBF7D70A4) = true then 0xBF7D70A4
        else if (F32.ofWord 0x3F7D70A4).lt s.arg0F = true then 0x3F7D70A4
        else s.arg0

/-- R301, R294: `an.setspeed` stores the clamped operand (0x3A83126F is 0.001, 0x42C80000 is 100) and
recomputes ASM; the traces stay. The draw counter is the model's (log entry 3). -/
def Obligations.AnSetspeedStoresTheClampedConstant : Prop :=
  ∀ s : State, s.initDone = true →
    ∃ t, exec .anSetspeed s = .next t ∧
      t = { s with draws := t.draws, an := { s.an with
        speed := t.an.speed
        asm := asmOf Config.params s.an.len s.rateF (F32.ofWord t.an.speed) } } ∧
      t.an.speed =
        if s.arg0F.isNan = true ∨ s.arg0F.lt (F32.ofWord 0x3A83126F) = true then 0x3A83126F
        else if (F32.ofWord 0x42C80000).lt s.arg0F = true then 0x42C80000
        else s.arg0

/-- R302: `an.clrpeak`. -/
def Obligations.AnClrpeakClearsThePeakTrace : Prop :=
  decode 0x25000000 = .ok .anClrpeak ∧
  (∀ (w : Word) (s : State), w.opc = 0x25 → w ≠ 0x25000000 →
    execute w s = .next { s with err := true, cause := .illegalCmd }) ∧
  ∀ s : State,
    (s.initDone = false → exec .anClrpeak s = .next { s with err := true, cause := .notInit }) ∧
    (s.initDone = true → ∃ t, exec .anClrpeak s = .next t ∧
      t = { s with an := { s.an with peak := t.an.peak } } ∧
      ∀ (P : Params) (k : Nat), t.readTarget P (.peak k) = 0)

/-- R289, R290, R291: whatever the open parameters are, the transform gives L/2+1 bins within the
parameter's error bound of the exact ones (log entry 6), the zero vector transforms to zeros, CONV0 is
symmetric, CONV1 is antisymmetric, and the bins are extended by four conjugate bins at each edge. -/
def Obligations.SpectrumSymmetries : Prop :=
  (∀ P : Params,
    (∀ j, j ≤ 8 → conv0 P j = conv0 P (8 - j)) ∧ (∀ j, j ≤ 7 → conv1 P j = (conv1 P (7 - j)).neg) ∧
    (∀ v : List F32, (fftR2C P v).length = v.length / 2 + 1 ∧
      ((∀ x ∈ v, x.isZero = true) → ∀ b ∈ fftR2C P v, b.re.isZero = true ∧ b.im.isZero = true)) ∧
    WithinBound (fun v k => (fftR2C P v).getD k Cplx.zero) P.fft.bound) ∧
  ∀ (X : List C32) (h : Nat), 8 ≤ h → X.length = h + 1 →
    (∀ k, k ≤ h → some (extendAt X h k) = X[k]?) ∧
    ∀ j : Nat, 1 ≤ j → j ≤ 4 →
      some (extendAt X h (-(j : Int))) = X[j]?.map Cplx.conj ∧
      some (extendAt X h ((h : Int) + j)) = X[h - j]?.map Cplx.conj

/-! ## The response commands (40_shelf.md, 41_band.md) -/

/-- R151, R152, R153, R180, R181: each response command completes, writes RESULT with the response of the
channel's current coefficients at ARG0, and changes nothing else (but the draw counter, log entry 3). -/
def Obligations.RespCommandsAnswerTheResponse : Prop :=
  ∀ (s : State) (c : Nat), s.initDone = true → c < s.nchan.val →
    (∀ i, i < 4 → ∃ t, exec (.respBand i c) s = .next t ∧
      t = { s with result := t.result, draws := t.draws } ∧
      F32.ofWord t.result = ((s.chan c).band i).resp Config.params s.arg0F s.rateF) ∧
    (∃ t, exec (.respLs c) s = .next t ∧ t = { s with result := t.result, draws := t.draws } ∧
      F32.ofWord t.result = (s.chan c).ls.resp Config.params s.arg0F s.rateF) ∧
    (∃ t, exec (.respHs c) s = .next t ∧ t = { s with result := t.result, draws := t.draws } ∧
      F32.ofWord t.result = (s.chan c).hs.resp Config.params s.arg0F s.rateF)

/-- R151, R153, R180, R181: a NaN, zero or negative frequency is answered at DC, one from half the rate on
at Nyquist. -/
def Obligations.RespFrequencyIsClamped : Prop :=
  ∀ F rate : F32, rateOk rate = true →
    (F.isNan = true ∨ F.le Const.zero = true → (respAngle F rate).isZero = true) ∧
    (F.isNan = true ∨ F.lt Const.zero = true → respAngle F rate = Const.twoPi.mul Const.zero) ∧
    (F = Flt.inf false ∨ (F.isFinite = true ∧ rate.toRat ≤ 2 * F.toRat) →
      respAngle F rate = Const.twoPi.mul Const.half)

/-! ## The filter sections (40_shelf.md, 41_band.md, 42_hplp.md) -/

/-- R154, of the coefficients. Item 1, first half: at 0 dB, with NUM.pow(10, 0) = 1, a cosine in [-1, 1] and
alpha in [0, 2], the stored coefficients are those of the identity. Items 2 and 3, of the block's own
formulas in exact arithmetic (log entry 24): at every frequency the low shelf at +G dB answers G dB more
than the high shelf at -G dB; a0 > 0, and both poles of either shelf lie inside the unit circle. -/
def Obligations.ShelfAtZeroDbIsTheIdentity : Prop :=
  (∀ (P : Params) (which : ShelfKind) (S : Shelf), S.gdb.isZero = true →
    (∀ s, P.num.pow Const.ten (Flt.zero s) = Const.one) → (P.num.cos S.angle).abs.le Const.one = true →
    Const.zero.le (S.alpha P) = true → (S.alpha P).le Const.two = true →
      (S.coeffs P which).b0 = Const.one ∧
      (S.coeffs P which).b1.eq (S.coeffs P which).a1 = true ∧
      (S.coeffs P which).b2 = (S.coeffs P which).a2 ∧
      (S.coeffs P which).b1.abs.le Const.two = true ∧ (S.coeffs P which).b2.abs.le Const.two = true) ∧
  (∀ G w0 Q w : ℝ, 0 < Q → 0 < w0 → w0 < Real.pi →
    (exactShelfDb .low G w0 Q).exactDb w - (exactShelfDb .high (-G) w0 Q).exactDb w = G) ∧
  ∀ (which : ShelfKind) (A w0 Q : ℝ), 0 < A → 0 < Q → 0 < w0 → w0 < Real.pi →
    let c := (exactShelf which A w0 Q).normalised .exact
    0 < (exactShelf which A w0 Q).a0 ∧ |c.a2| < 1 ∧ |c.a1| < 1 + c.a2 ∧
      ∀ z : ℂ, z ^ 2 + c.a1 * z + c.a2 = 0 → ‖z‖ < 1

/-- R154 item 1, second half, and R379: identity coefficients and zero registers pass every sample as a
value. Finite samples come back bit for bit and leave the registers at zero (a NaN is one value here, log
entry 4), but for -0.0, which may come out as +0.0, and does so from a register +0.0: there R148's formula
and R154's word 'every' contradict each other, and the model computes R148 (log entry 13). The first NaN
or infinity comes back too, and leaves NaN in the registers and in every later sample. -/
def Obligations.UnitShelfPassesSamples : Prop :=
  ∀ (S : Shelf) (w : List F32), S.b0 = Const.one → S.b1.eq S.a1 = true → S.b2 = S.a2 →
    S.b1.abs.le Const.two = true → S.b2.abs.le Const.two = true →
    S.z1.isZero = true → S.z2.isZero = true → (∀ x ∈ w, x.isFinite = true) →
      List.Forall₂ (fun x y => y = x ∨ (x = Flt.zero true ∧ y = f32Zero)) w (S.apply w).2 ∧
      (∃ n m, (S.apply w).1 = { S with z1 := Flt.zero n, z2 := Flt.zero m } ∧
        (S.apply w).1.flushed = { S with z1 := f64Zero, z2 := f64Zero }) ∧
      (S.z1 = f64Zero → S.z2 = f64Zero → (∀ x ∈ w, x ≠ Flt.zero true) → S.apply w = (S, w)) ∧
      (S.z1 = f64Zero → (S.sample (Flt.zero true)).2 = f32Zero) ∧
      ∀ (x : F32) (v : List F32), x.isFinite = false →
        (S.apply (w ++ x :: v)).2 = (S.apply w).2 ++ x :: List.replicate v.length .nan ∧
        (S.apply (w ++ x :: v)).1 = { S with z1 := .nan, z2 := .nan }

/-- R182 item 3: at unity gain the peaking mix is zero, and a section, and a band of two sections in
cascade over a whole block (R176), returns every sample bit for bit (-0.0 may come out as +0.0) as long
as the all-pass differences are finite. A section whose difference is not finite answers a NaN, as R175
computes (log entry 23). -/
def Obligations.BandAtUnityGainPassesSamples : Prop :=
  (∀ (P : Params) (B : Band), B.gl = Const.one → (B.coeffs P).a = f32Zero) ∧
  (∀ s1 s2 a zi zo x : F32, a.isZero = true →
    ((allpassDiff s2 zo x).isFinite = true →
      (latticeSection s1 s2 a zi zo x).2.2 = x ∨
        (x = Flt.zero true ∧ (latticeSection s1 s2 a zi zo x).2.2 = f32Zero)) ∧
    ((allpassDiff s2 zo x).isFinite = false → (latticeSection s1 s2 a zi zo x).2.2 = .nan)) ∧
  ∀ (B : Band) (w : List F32), B.a.isZero = true → B.DiffsFinite w →
    List.Forall₂ (fun x y => y = x ∨ (x = Flt.zero true ∧ y = f32Zero)) w (B.apply w).2

/-- R204, R209, R211: a disabled high-pass or low-pass at its bypass identity stays there and passes
every sample as a value, -0.0 and NaN among them (a NaN is one value here, log entry 4). -/
def Obligations.DisabledHplpPassesSamples : Prop :=
  ∀ (P : Params) (x : HplpKind) (r : HplpControls) (rate : F32) (F : Hplp) (w : List F32),
    r.en = false → F.p = f32One → F.q = f32Zero → F.g = f32Zero →
      (F.run P x r rate w).2 = w ∧ (F.run P x r rate w).1.p = f32One ∧
        (F.run P x r rate w).1.q = f32Zero ∧ (F.run P x r rate w).1.g = f32Zero

/-- R206, R236: the NaN guard zeroes both registers exactly when either is not finite; the flush, in
either format, makes +0.0 of every magnitude below 1e-12 (every subnormal and -0.0 among them) and keeps
NaN, infinities and the rest. -/
def Obligations.GuardAndFlushCleanRegisters : Prop :=
  (∀ F : Hplp, (F.z1.isFinite = true ∧ F.z2.isFinite = true → F.nanGuard = F) ∧
    (¬ (F.z1.isFinite = true ∧ F.z2.isFinite = true) →
      F.nanGuard = { F with z1 := f32Zero, z2 := f32Zero })) ∧
  ∀ (f : Fmt) (v : Flt f), IsFormat f →
    (v.isFinite = true → |v.toRat| < (Const.denormalFloor : Flt f).toRat →
      flush v = Flt.zero false) ∧
    (v.isFinite = false ∨ (Const.denormalFloor : Flt f).toRat ≤ |v.toRat| → flush v = v) ∧
    ∀ (s : Bool) (m : Nat), m < 2 ^ f.mb → flush (Flt.ofMag s m : Flt f) = Flt.zero false

/-- R231: a smoothing step never overshoots and always makes progress, and at the target it stays there.
Operands whose difference overflows are excepted (log entry 14). -/
def Obligations.SmoothMovesTowardsTheTarget : Prop :=
  ∀ c t : F32, c.isFinite = true → t.isFinite = true → (t.sub c).isFinite = true →
    (c.lt t = true → c.lt (smooth c t) = true ∧ (smooth c t).le t = true) ∧
    (t.lt c = true → t.le (smooth c t) = true ∧ (smooth c t).lt c = true) ∧
    (c.eq t = true → smooth c t = t)

/-! ## Arithmetic (00_scope.md) -/

/-- R12: sums, differences and products are the exact value rounded once. -/
def Obligations.SumAndProductAreRoundedOnce : Prop :=
  ∀ (f : Fmt), IsFormat f → ∀ a b : Flt f, a.isFinite = true → b.isFinite = true →
    Rounded (a.toRat + b.toRat) (a.add b) ∧ Rounded (a.toRat - b.toRat) (a.sub b) ∧
      Rounded (a.toRat * b.toRat) (a.mul b)

/-- R12: quotients and square roots are the exact value rounded once. -/
def Obligations.QuotientAndRootAreRoundedOnce : Prop :=
  ∀ (f : Fmt), IsFormat f → ∀ a b : Flt f, a.isFinite = true → b.isFinite = true →
    (b.isZero = false → Rounded (a.toRat / b.toRat) (a.div b)) ∧
    (0 ≤ a.toRat → a.sqrt.isFinite = true ∧ 0 ≤ a.sqrt.toRat ∧
      ∀ v : Flt f, v.isFinite = true → v.toRat ≠ a.sqrt.toRat →
        |(a.sqrt.toRat : ℝ) - Real.sqrt a.toRat| < |(v.toRat : ℝ) - Real.sqrt a.toRat|)

/-- R12, R13: the operands that are no finite numbers, and the signs of exact zeros, as IEEE 754 has
them. A NaN is one value here (log entry 4). -/
def Obligations.SpecialOperandsFollowIeee : Prop :=
  ∀ (f : Fmt), IsFormat f →
    (∀ a b : Flt f, a.isNan = true ∨ b.isNan = true →
      a.add b = .nan ∧ a.sub b = .nan ∧ a.mul b = .nan ∧ a.div b = .nan) ∧
    (∀ s : Bool, (Flt.inf s : Flt f).add (Flt.inf s) = Flt.inf s ∧
      (Flt.inf s : Flt f).add (Flt.inf (!s)) = .nan ∧ (Flt.inf s : Flt f).sub (Flt.inf s) = .nan ∧
      (Flt.inf s : Flt f).sub (Flt.inf (!s)) = Flt.inf s ∧
      ∀ a : Flt f, a.isFinite = true → (Flt.inf s).add a = Flt.inf s ∧ a.add (Flt.inf s) = Flt.inf s ∧
        (Flt.inf s).sub a = Flt.inf s ∧ a.sub (Flt.inf s) = Flt.inf (!s) ∧
        (Flt.inf s).div a = Flt.inf (s ^^ a.sign)) ∧
    (∀ (s : Bool) (a : Flt f), a.isNan = false →
      (Flt.inf s).mul a = (if a.isZero = true then .nan else Flt.inf (s ^^ a.sign)) ∧
      a.mul (Flt.inf s) = (if a.isZero = true then .nan else Flt.inf (a.sign ^^ s)) ∧
      a.div (Flt.zero s) = (if a.isZero = true then .nan else Flt.inf (a.sign ^^ s)) ∧
      a.div (Flt.inf s) = if a.isInf = true then .nan else Flt.zero (a.sign ^^ s)) ∧
    (∀ a b : Flt f, a.isFinite = true → b.isFinite = true →
      (a.toRat + b.toRat = 0 → a.add b = Flt.zero (a.sign && b.sign)) ∧
      (a.toRat - b.toRat = 0 → a.sub b = Flt.zero (a.sign && !b.sign)) ∧
      (a.isZero = true ∨ b.isZero = true → a.mul b = Flt.zero (a.sign ^^ b.sign)) ∧
      (a.isZero = true → b.isZero = false → a.div b = Flt.zero (a.sign ^^ b.sign))) ∧
    (∀ a : Flt f, a.isNan = true ∨ (a.sign = true ∧ a.isZero = false) → a.sqrt = .nan) ∧
    (∀ s : Bool, (Flt.zero s : Flt f).sqrt = Flt.zero s) ∧
    (Flt.inf false : Flt f).sqrt = Flt.inf false

/-- R12: widening to binary64 is exact, narrowing to binary32 rounds once; zeros and infinities keep
their sign, and a NaN stays one (log entry 4). -/
def Obligations.ConversionsRoundOnce : Prop :=
  (∀ a : F32, a.isFinite = true → a.to64.isFinite = true ∧ a.to64.toRat = a.toRat ∧
    a.to64.to32 = a) ∧
  (∀ a : F64, a.isFinite = true → Rounded a.toRat a.to32) ∧
  (Flt.nan : F32).to64 = .nan ∧ (Flt.nan : F64).to32 = .nan ∧
  ∀ s : Bool, (Flt.inf s : F32).to64 = Flt.inf s ∧ (Flt.inf s : F64).to32 = Flt.inf s ∧
    (Flt.zero s : F32).to64 = Flt.zero s ∧ (Flt.zero s : F64).to32 = Flt.zero s

/-- R14, R15: comparisons of finite values are those of the numbers they stand for, a comparison with a
NaN is false, and `clamp` gives the nearest bound, the lower one for a NaN. -/
def Obligations.ComparisonsAndClampFollowTheValues : Prop :=
  ∀ (f : Fmt), IsFormat f → ∀ a b : Flt f,
    (a.isFinite = true → b.isFinite = true →
      (a.lt b = true ↔ a.toRat < b.toRat) ∧ (a.le b = true ↔ a.toRat ≤ b.toRat) ∧
      (a.eq b = true ↔ a.toRat = b.toRat)) ∧
    (a.isNan = true ∨ b.isNan = true → a.lt b = false ∧ a.le b = false ∧ a.gt b = false ∧
      a.ge b = false ∧ a.eq b = false) ∧
    ∀ v : Flt f, a.le b = true →
      (v.isNan = true ∨ v.lt a = true → v.clamp a b = a) ∧
      (v.gt b = true → v.clamp a b = b) ∧
      (a.le v = true → v.le b = true → v.clamp a b = v)

/-! ## Reset and invariants (10_state.md, 70_reset_and_hazards.md) -/

/-- R64: the power-on value of every host-visible register; an AUDIO word may read as any pattern. -/
def Obligations.ResetRegisters : Prop :=
  (∀ P : Params,
    (∀ e ∈ ([(.id, 0x46494C34), (.status, 0), (.arg0, 0), (.result, 0), (.rate, 0), (.nchan, 0),
        (.hwcfg, 0x000D0D24), (.anFftlen, 8192), (.anWarp, 0), (.anSpeed, 0x3F000000),
        (.anPmax, 0)] : List (IfaceReg × Word)), State.reset.readTarget P (.iface e.1) = e.2) ∧
    (∀ e ∈ ([(.globalEn, 0), (.globalGainDb, 0), (.hpEn, 0), (.hpFreq, 0x41A00000),
        (.hpRes, 0x3F333333), (.lpEn, 0), (.lpFreq, 0x469C4000), (.lpRes, 0x3F333333), (.lsEn, 0),
        (.lsFreq, 0x42A00000), (.lsQ, 0x3F800000), (.lsGainDb, 0), (.hsEn, 0), (.hsFreq, 0x45FA0000),
        (.hsQ, 0x3F800000), (.hsGainDb, 0), (.bandFreq 0, 0x43200000), (.bandFreq 1, 0x43C80000),
        (.bandFreq 2, 0x449C4000), (.bandFreq 3, 0x457A0000), (.anPhold, 0)] :
        List (CtlReg × Word)), State.reset.readTarget P (.ctl e.1) = e.2) ∧
    (∀ i, i < 4 → State.reset.readTarget P (.ctl (.bandEn i)) = 0 ∧
      State.reset.readTarget P (.ctl (.bandBw i)) = 0x3F800000 ∧
      State.reset.readTarget P (.ctl (.bandGainDb i)) = 0) ∧
    ∀ k, State.reset.readTarget P (.power k) = 0 ∧ State.reset.readTarget P (.peak k) = 0) ∧
  ∀ (c j : Nat) (v : Word), ∃ P : Params, State.reset.readTarget P (.audio c j) = v

/-- R63, R64, R65: the invariants hold at reset. -/
def Obligations.InvariantsHoldAtReset : Prop :=
  State.reset.Inv ∧ State.reset.Consistent ∧ State.reset.GainsPositive ∧
    State.reset.SectionsInRange ∧ State.reset.PolesInRange Config.params

/-- R63, R100: every step keeps the ranges, the sizes of the buffers and the canonical form of memory. -/
def Obligations.EveryStepKeepsInv : Prop :=
  ∀ s t : State, s.Inv → step s = .next t → t.Inv

/-- R32, R36, R84, R295, R296: every step keeps the links between the status bits, the rate and the
traces. -/
def Obligations.EveryStepKeepsConsistent : Prop :=
  ∀ s t : State, s.Inv → s.Consistent → step s = .next t → t.Consistent

/-- R52, R63: the smoothed gain stays positive, whatever the host writes. -/
def Obligations.EveryStepKeepsGainsPositive : Prop :=
  ∀ s t : State, s.GainsPositive → step s = .next t → t.GainsPositive

/-- R63: the engage factor and the resonance of every high-pass and low-pass stay in their ranges; and so,
for every NUM whose exp decays towards minus infinity (R20; log entry 5), do their pole coefficients,
under every NUM in the two commands that write them and under the block's own NUM in every step. -/
def Obligations.EveryStepKeepsSectionsInRange : Prop :=
  (∀ s t : State, s.SectionsInRange → step s = .next t → t.SectionsInRange) ∧
  (∀ P : Params, ExpDecays P.num → ∀ (s : State) (n : Nat),
    (initialise P n s).PolesInRange P ∧
      (s.PolesInRange P → (processSamples P n s).PolesInRange P)) ∧
  (ExpDecays Config.params.num → ∀ s t : State, s.PolesInRange Config.params → step s = .next t →
    t.PolesInRange Config.params)
end

