-- ==== Sys2Proof/Laws/Memory.lean ====
section
/-! SUPPORT. The laws of AUDIO memory: a read after a write, the bytes a write leaves alone, and the
canonical form that every write keeps. -/

namespace Sys2Proof.Machine

theorem Memory.find_write_same (a : Nat) (v : Byte) (m : Memory) : (m.write a v).find a = some v := by
  induction m with
  | nil => simp [Memory.write, Memory.find]
  | cons e m ih =>
    obtain ⟨b, w⟩ := e
    simp only [Memory.write]
    split
    · simp [Memory.find]
    · split
      · simp [Memory.find]
      · rename_i h; simp [Memory.find, h, ih]

theorem Memory.find_write_other {a b : Nat} (h : a ≠ b) (v : Byte) (m : Memory) :
    (m.write b v).find a = m.find a := by
  induction m with
  | nil => simp [Memory.write, Memory.find, h]
  | cons e m ih =>
    obtain ⟨d, w⟩ := e
    simp only [Memory.write]
    split
    · simp [Memory.find, h]
    · split
      · rename_i h2; subst h2; simp [Memory.find, h]
      · simp [Memory.find, ih]

/-- A written byte is read back; every other byte reads as before. -/
theorem Memory.byteAt_write (P : Params) (m : Memory) (a b : Nat) (v : Byte) :
    (m.write b v).byteAt P a = if a = b then v else m.byteAt P a := by
  split
  · rename_i h; subst h; simp [Memory.byteAt, Memory.find_write_same]
  · rename_i h; simp [Memory.byteAt, Memory.find_write_other h]

theorem Memory.mem_write {a : Nat} {v : Byte} {m : Memory} {e : Host.Cell} (h : e ∈ m.write a v) :
    e = (a, v) ∨ e ∈ m := by
  induction m with
  | nil => simpa [Memory.write] using h
  | cons x m ih =>
    obtain ⟨b, w⟩ := x
    simp only [Memory.write] at h
    split at h
    · simpa using h
    · split at h
      · rcases List.mem_cons.1 h with h | h
        · exact .inl h
        · exact .inr (List.mem_cons_of_mem _ h)
      · rcases List.mem_cons.1 h with h | h
        · exact .inr (h ▸ List.mem_cons_self ..)
        · exact (ih h).imp id (List.mem_cons_of_mem _)

theorem Memory.wf_nil : Memory.wf [] := List.Pairwise.nil

/-- A write keeps the canonical form. -/
theorem Memory.wf_write {m : Memory} (h : m.wf) (a : Nat) (v : Byte) : (m.write a v).wf := by
  induction m with
  | nil => simp [Memory.write, Memory.wf]
  | cons x m ih =>
    obtain ⟨b, w⟩ := x
    have hx := List.pairwise_cons.1 h
    simp only [Memory.write]
    split
    · rename_i hab
      refine List.pairwise_cons.2 ⟨fun e he => ?_, h⟩
      rcases List.mem_cons.1 he with he | he
      · subst he; exact hab
      · exact Nat.lt_trans hab (hx.1 e he)
    · split
      · rename_i hab; subst hab; exact List.pairwise_cons.2 ⟨hx.1, hx.2⟩
      · refine List.pairwise_cons.2 ⟨fun e he => ?_, ih hx.2⟩
        rcases Memory.mem_write he with he | he
        · subst he; simp only; omega
        · exact hx.1 e he

theorem Memory.wf_writeWord {m : Memory} (h : m.wf) (a : Nat) (w : Word) : (m.writeWord a w).wf :=
  Memory.wf_write (Memory.wf_write (Memory.wf_write (Memory.wf_write h _ _) _ _) _ _) _ _

theorem Memory.wf_writeFloats (P : Params) (vs : List F32) :
    ∀ (d a : Nat) {m : Memory}, m.wf → (m.writeFloats P d a vs).wf := by
  induction vs with
  | nil => intro d a m h; exact h
  | cons v vs ih => intro d a m h; exact ih _ _ (Memory.wf_writeWord h _ _)

/-- The bytes a stored word puts at its four addresses; every other byte reads as before. -/
theorem Memory.byteAt_writeWord (P : Params) (m : Memory) (a b : Nat) (w : Word) :
    (m.writeWord a w).byteAt P b =
      if b = a then w.extractLsb' 0 8
      else if b = a + 1 then w.extractLsb' 8 8
      else if b = a + 2 then w.extractLsb' 16 8
      else if b = a + 3 then w.extractLsb' 24 8
      else m.byteAt P b := by
  simp only [Memory.writeWord, Memory.byteAt_write]
  repeat' split
  all_goals first | rfl | omega

theorem Memory.byteAt_writeWord_other (P : Params) (m : Memory) {a b : Nat} (w : Word)
    (h : b < a ∨ a + 4 ≤ b) : (m.writeWord a w).byteAt P b = m.byteAt P b := by
  rw [Memory.byteAt_writeWord]
  repeat' split
  all_goals first | rfl | omega

/-- Four bytes, the last the most significant, are the word they were cut from. -/
theorem append_bytes (w : Word) :
    w.extractLsb' 24 8 ++ w.extractLsb' 16 8 ++ w.extractLsb' 8 8 ++ w.extractLsb' 0 8 = w := by
  ext i hi
  simp only [BitVec.getElem_append, BitVec.getElem_extractLsb']
  repeat' split
  all_goals first | (congr 1; omega) | (rw [← BitVec.getLsbD_eq_getElem]; congr 1; omega)

theorem Memory.wordAt_writeWord_same (P : Params) (m : Memory) (a : Nat) (w : Word) :
    (m.writeWord a w).wordAt P a = w := by
  simp only [Memory.wordAt, Memory.byteAt_writeWord]
  simpa using append_bytes w

theorem Memory.wordAt_writeWord_other (P : Params) (m : Memory) {a b : Nat} (w : Word)
    (h : b + 4 ≤ a ∨ a + 4 ≤ b) : (m.writeWord a w).wordAt P b = m.wordAt P b := by
  simp only [Memory.wordAt]
  rw [Memory.byteAt_writeWord_other, Memory.byteAt_writeWord_other, Memory.byteAt_writeWord_other,
    Memory.byteAt_writeWord_other] <;> omega

/-- Storing values at consecutive words leaves every byte outside them alone. -/
theorem Memory.byteAt_writeFloats_other (P : Params) (b : Nat) (vs : List F32) :
    ∀ (d a : Nat) (m : Memory), b < a ∨ a + 4 * vs.length ≤ b →
      (m.writeFloats P d a vs).byteAt P b = m.byteAt P b := by
  induction vs with
  | nil => intro d a m _; rfl
  | cons v vs ih =>
    intro d a m h
    simp only [List.length_cons] at h
    rw [Memory.writeFloats, ih _ _ _ (by omega), Memory.byteAt_writeWord_other _ _ _ (by omega)]

theorem Memory.wordAt_writeFloats_other (P : Params) (b : Nat) (vs : List F32) (d a : Nat) (m : Memory)
    (h : b + 4 ≤ a ∨ a + 4 * vs.length ≤ b) :
    (m.writeFloats P d a vs).wordAt P b = m.wordAt P b := by
  simp only [Memory.wordAt]
  rw [Memory.byteAt_writeFloats_other, Memory.byteAt_writeFloats_other,
    Memory.byteAt_writeFloats_other, Memory.byteAt_writeFloats_other] <;> omega

/-- The `j`-th of the stored values is read back, as the pattern its draw gives it. -/
theorem Memory.wordAt_writeFloats (P : Params) (vs : List F32) :
    ∀ (d a j : Nat) (m : Memory) (v : F32), vs[j]? = some v →
      (m.writeFloats P d a vs).wordAt P (a + 4 * j) = v.toWord (drawNan P d j) := by
  induction vs with
  | nil => intro d a j m v h; simp at h
  | cons x vs ih =>
    intro d a j m v h
    cases j with
    | zero =>
      simp only [List.getElem?_cons_zero, Option.some.injEq] at h
      rw [Memory.writeFloats, Memory.wordAt_writeFloats_other _ _ _ _ _ _ (by omega), Nat.mul_zero,
        Nat.add_zero, Memory.wordAt_writeWord_same, h]
    | succ j =>
      rw [Memory.writeFloats, show a + 4 * (j + 1) = a + 4 + 4 * j by omega,
        ih _ _ j _ v (by simpa using h)]
      rw [drawNan, drawNan, show d + 1 + j = d + (j + 1) by omega]

end Sys2Proof.Machine
end

