-- ==== Sys2Proof/Laws/State.lean ====
section
/-! SUPPORT. One lemma per field per update of the state, all true by rfl: a later proof unfolds no
record update. -/

namespace Sys2Proof.Machine

section raise
@[simp] theorem State.raise_err (c : Cause) (s : State) :
    (s.raise c).err = true := rfl
@[simp] theorem State.raise_cause (c : Cause) (s : State) :
    (s.raise c).cause = c := rfl
@[simp] theorem State.raise_chg (c : Cause) (s : State) :
    (s.raise c).chg = s.chg := rfl
@[simp] theorem State.raise_initDone (c : Cause) (s : State) :
    (s.raise c).initDone = s.initDone := rfl
@[simp] theorem State.raise_arg0 (c : Cause) (s : State) :
    (s.raise c).arg0 = s.arg0 := rfl
@[simp] theorem State.raise_result (c : Cause) (s : State) :
    (s.raise c).result = s.result := rfl
@[simp] theorem State.raise_rate (c : Cause) (s : State) :
    (s.raise c).rate = s.rate := rfl
@[simp] theorem State.raise_nchan (c : Cause) (s : State) :
    (s.raise c).nchan = s.nchan := rfl
@[simp] theorem State.raise_ctl (c : Cause) (s : State) :
    (s.raise c).ctl = s.ctl := rfl
@[simp] theorem State.raise_ch (c : Cause) (s : State) :
    (s.raise c).ch = s.ch := rfl
@[simp] theorem State.raise_an (c : Cause) (s : State) :
    (s.raise c).an = s.an := rfl
@[simp] theorem State.raise_mem (c : Cause) (s : State) :
    (s.raise c).mem = s.mem := rfl
@[simp] theorem State.raise_bus (c : Cause) (s : State) :
    (s.raise c).bus = s.bus := rfl
@[simp] theorem State.raise_rdata (c : Cause) (s : State) :
    (s.raise c).rdata = s.rdata := rfl
@[simp] theorem State.raise_draws (c : Cause) (s : State) :
    (s.raise c).draws = s.draws := rfl
end raise

section clearError
@[simp] theorem State.clearError_err (s : State) :
    (s.clearError).err = false := rfl
@[simp] theorem State.clearError_cause (s : State) :
    (s.clearError).cause = .none := rfl
@[simp] theorem State.clearError_chg (s : State) :
    (s.clearError).chg = s.chg := rfl
@[simp] theorem State.clearError_initDone (s : State) :
    (s.clearError).initDone = s.initDone := rfl
@[simp] theorem State.clearError_arg0 (s : State) :
    (s.clearError).arg0 = s.arg0 := rfl
@[simp] theorem State.clearError_result (s : State) :
    (s.clearError).result = s.result := rfl
@[simp] theorem State.clearError_rate (s : State) :
    (s.clearError).rate = s.rate := rfl
@[simp] theorem State.clearError_nchan (s : State) :
    (s.clearError).nchan = s.nchan := rfl
@[simp] theorem State.clearError_ctl (s : State) :
    (s.clearError).ctl = s.ctl := rfl
@[simp] theorem State.clearError_ch (s : State) :
    (s.clearError).ch = s.ch := rfl
@[simp] theorem State.clearError_an (s : State) :
    (s.clearError).an = s.an := rfl
@[simp] theorem State.clearError_mem (s : State) :
    (s.clearError).mem = s.mem := rfl
@[simp] theorem State.clearError_bus (s : State) :
    (s.clearError).bus = s.bus := rfl
@[simp] theorem State.clearError_rdata (s : State) :
    (s.clearError).rdata = s.rdata := rfl
@[simp] theorem State.clearError_draws (s : State) :
    (s.clearError).draws = s.draws := rfl
end clearError

section setResult
@[simp] theorem State.setResult_err (P : Params) (v : F32) (s : State) :
    (s.setResult P v).err = s.err := rfl
@[simp] theorem State.setResult_cause (P : Params) (v : F32) (s : State) :
    (s.setResult P v).cause = s.cause := rfl
@[simp] theorem State.setResult_chg (P : Params) (v : F32) (s : State) :
    (s.setResult P v).chg = s.chg := rfl
@[simp] theorem State.setResult_initDone (P : Params) (v : F32) (s : State) :
    (s.setResult P v).initDone = s.initDone := rfl
@[simp] theorem State.setResult_arg0 (P : Params) (v : F32) (s : State) :
    (s.setResult P v).arg0 = s.arg0 := rfl
@[simp] theorem State.setResult_result (P : Params) (v : F32) (s : State) :
    (s.setResult P v).result = v.toWord (drawNan P s.draws 0) := rfl
@[simp] theorem State.setResult_rate (P : Params) (v : F32) (s : State) :
    (s.setResult P v).rate = s.rate := rfl
@[simp] theorem State.setResult_nchan (P : Params) (v : F32) (s : State) :
    (s.setResult P v).nchan = s.nchan := rfl
@[simp] theorem State.setResult_ctl (P : Params) (v : F32) (s : State) :
    (s.setResult P v).ctl = s.ctl := rfl
@[simp] theorem State.setResult_ch (P : Params) (v : F32) (s : State) :
    (s.setResult P v).ch = s.ch := rfl
@[simp] theorem State.setResult_an (P : Params) (v : F32) (s : State) :
    (s.setResult P v).an = s.an := rfl
@[simp] theorem State.setResult_mem (P : Params) (v : F32) (s : State) :
    (s.setResult P v).mem = s.mem := rfl
@[simp] theorem State.setResult_bus (P : Params) (v : F32) (s : State) :
    (s.setResult P v).bus = s.bus := rfl
@[simp] theorem State.setResult_rdata (P : Params) (v : F32) (s : State) :
    (s.setResult P v).rdata = s.rdata := rfl
@[simp] theorem State.setResult_draws (P : Params) (v : F32) (s : State) :
    (s.setResult P v).draws = s.draws + 1 := rfl
end setResult

section writeAudio
@[simp] theorem State.writeAudio_err (P : Params) (c off : Nat) (vs : List F32) (s : State) :
    (s.writeAudio P c off vs).err = s.err := rfl
@[simp] theorem State.writeAudio_cause (P : Params) (c off : Nat) (vs : List F32) (s : State) :
    (s.writeAudio P c off vs).cause = s.cause := rfl
@[simp] theorem State.writeAudio_chg (P : Params) (c off : Nat) (vs : List F32) (s : State) :
    (s.writeAudio P c off vs).chg = s.chg := rfl
@[simp] theorem State.writeAudio_initDone (P : Params) (c off : Nat) (vs : List F32) (s : State) :
    (s.writeAudio P c off vs).initDone = s.initDone := rfl
@[simp] theorem State.writeAudio_arg0 (P : Params) (c off : Nat) (vs : List F32) (s : State) :
    (s.writeAudio P c off vs).arg0 = s.arg0 := rfl
@[simp] theorem State.writeAudio_result (P : Params) (c off : Nat) (vs : List F32) (s : State) :
    (s.writeAudio P c off vs).result = s.result := rfl
@[simp] theorem State.writeAudio_rate (P : Params) (c off : Nat) (vs : List F32) (s : State) :
    (s.writeAudio P c off vs).rate = s.rate := rfl
@[simp] theorem State.writeAudio_nchan (P : Params) (c off : Nat) (vs : List F32) (s : State) :
    (s.writeAudio P c off vs).nchan = s.nchan := rfl
@[simp] theorem State.writeAudio_ctl (P : Params) (c off : Nat) (vs : List F32) (s : State) :
    (s.writeAudio P c off vs).ctl = s.ctl := rfl
@[simp] theorem State.writeAudio_ch (P : Params) (c off : Nat) (vs : List F32) (s : State) :
    (s.writeAudio P c off vs).ch = s.ch := rfl
@[simp] theorem State.writeAudio_an (P : Params) (c off : Nat) (vs : List F32) (s : State) :
    (s.writeAudio P c off vs).an = s.an := rfl
@[simp] theorem State.writeAudio_mem (P : Params) (c off : Nat) (vs : List F32) (s : State) :
    (s.writeAudio P c off vs).mem = s.mem.writeFloats P s.draws (audioAddr c off) vs := rfl
@[simp] theorem State.writeAudio_bus (P : Params) (c off : Nat) (vs : List F32) (s : State) :
    (s.writeAudio P c off vs).bus = s.bus := rfl
@[simp] theorem State.writeAudio_rdata (P : Params) (c off : Nat) (vs : List F32) (s : State) :
    (s.writeAudio P c off vs).rdata = s.rdata := rfl
@[simp] theorem State.writeAudio_draws (P : Params) (c off : Nat) (vs : List F32) (s : State) :
    (s.writeAudio P c off vs).draws = s.draws + vs.length := rfl
end writeAudio

section setChan
@[simp] theorem State.setChan_err (c : Nat) (x : Chan) (s : State) :
    (s.setChan c x).err = s.err := rfl
@[simp] theorem State.setChan_cause (c : Nat) (x : Chan) (s : State) :
    (s.setChan c x).cause = s.cause := rfl
@[simp] theorem State.setChan_chg (c : Nat) (x : Chan) (s : State) :
    (s.setChan c x).chg = s.chg := rfl
@[simp] theorem State.setChan_initDone (c : Nat) (x : Chan) (s : State) :
    (s.setChan c x).initDone = s.initDone := rfl
@[simp] theorem State.setChan_arg0 (c : Nat) (x : Chan) (s : State) :
    (s.setChan c x).arg0 = s.arg0 := rfl
@[simp] theorem State.setChan_result (c : Nat) (x : Chan) (s : State) :
    (s.setChan c x).result = s.result := rfl
@[simp] theorem State.setChan_rate (c : Nat) (x : Chan) (s : State) :
    (s.setChan c x).rate = s.rate := rfl
@[simp] theorem State.setChan_nchan (c : Nat) (x : Chan) (s : State) :
    (s.setChan c x).nchan = s.nchan := rfl
@[simp] theorem State.setChan_ctl (c : Nat) (x : Chan) (s : State) :
    (s.setChan c x).ctl = s.ctl := rfl
@[simp] theorem State.setChan_ch (c : Nat) (x : Chan) (s : State) :
    (s.setChan c x).ch = s.ch.set c x := rfl
@[simp] theorem State.setChan_an (c : Nat) (x : Chan) (s : State) :
    (s.setChan c x).an = s.an := rfl
@[simp] theorem State.setChan_mem (c : Nat) (x : Chan) (s : State) :
    (s.setChan c x).mem = s.mem := rfl
@[simp] theorem State.setChan_bus (c : Nat) (x : Chan) (s : State) :
    (s.setChan c x).bus = s.bus := rfl
@[simp] theorem State.setChan_rdata (c : Nat) (x : Chan) (s : State) :
    (s.setChan c x).rdata = s.rdata := rfl
@[simp] theorem State.setChan_draws (c : Nat) (x : Chan) (s : State) :
    (s.setChan c x).draws = s.draws := rfl
end setChan

section orChg
@[simp] theorem State.orChg_err (b : Bool) (s : State) :
    (s.orChg b).err = s.err := rfl
@[simp] theorem State.orChg_cause (b : Bool) (s : State) :
    (s.orChg b).cause = s.cause := rfl
@[simp] theorem State.orChg_chg (b : Bool) (s : State) :
    (s.orChg b).chg = (s.chg || b) := rfl
@[simp] theorem State.orChg_initDone (b : Bool) (s : State) :
    (s.orChg b).initDone = s.initDone := rfl
@[simp] theorem State.orChg_arg0 (b : Bool) (s : State) :
    (s.orChg b).arg0 = s.arg0 := rfl
@[simp] theorem State.orChg_result (b : Bool) (s : State) :
    (s.orChg b).result = s.result := rfl
@[simp] theorem State.orChg_rate (b : Bool) (s : State) :
    (s.orChg b).rate = s.rate := rfl
@[simp] theorem State.orChg_nchan (b : Bool) (s : State) :
    (s.orChg b).nchan = s.nchan := rfl
@[simp] theorem State.orChg_ctl (b : Bool) (s : State) :
    (s.orChg b).ctl = s.ctl := rfl
@[simp] theorem State.orChg_ch (b : Bool) (s : State) :
    (s.orChg b).ch = s.ch := rfl
@[simp] theorem State.orChg_an (b : Bool) (s : State) :
    (s.orChg b).an = s.an := rfl
@[simp] theorem State.orChg_mem (b : Bool) (s : State) :
    (s.orChg b).mem = s.mem := rfl
@[simp] theorem State.orChg_bus (b : Bool) (s : State) :
    (s.orChg b).bus = s.bus := rfl
@[simp] theorem State.orChg_rdata (b : Bool) (s : State) :
    (s.orChg b).rdata = s.rdata := rfl
@[simp] theorem State.orChg_draws (b : Bool) (s : State) :
    (s.orChg b).draws = s.draws := rfl
end orChg

section setAn
@[simp] theorem State.setAn_err (a : Analyser) (s : State) :
    (s.setAn a).err = s.err := rfl
@[simp] theorem State.setAn_cause (a : Analyser) (s : State) :
    (s.setAn a).cause = s.cause := rfl
@[simp] theorem State.setAn_chg (a : Analyser) (s : State) :
    (s.setAn a).chg = s.chg := rfl
@[simp] theorem State.setAn_initDone (a : Analyser) (s : State) :
    (s.setAn a).initDone = s.initDone := rfl
@[simp] theorem State.setAn_arg0 (a : Analyser) (s : State) :
    (s.setAn a).arg0 = s.arg0 := rfl
@[simp] theorem State.setAn_result (a : Analyser) (s : State) :
    (s.setAn a).result = s.result := rfl
@[simp] theorem State.setAn_rate (a : Analyser) (s : State) :
    (s.setAn a).rate = s.rate := rfl
@[simp] theorem State.setAn_nchan (a : Analyser) (s : State) :
    (s.setAn a).nchan = s.nchan := rfl
@[simp] theorem State.setAn_ctl (a : Analyser) (s : State) :
    (s.setAn a).ctl = s.ctl := rfl
@[simp] theorem State.setAn_ch (a : Analyser) (s : State) :
    (s.setAn a).ch = s.ch := rfl
@[simp] theorem State.setAn_an (a : Analyser) (s : State) :
    (s.setAn a).an = a := rfl
@[simp] theorem State.setAn_mem (a : Analyser) (s : State) :
    (s.setAn a).mem = s.mem := rfl
@[simp] theorem State.setAn_bus (a : Analyser) (s : State) :
    (s.setAn a).bus = s.bus := rfl
@[simp] theorem State.setAn_rdata (a : Analyser) (s : State) :
    (s.setAn a).rdata = s.rdata := rfl
@[simp] theorem State.setAn_draws (a : Analyser) (s : State) :
    (s.setAn a).draws = s.draws := rfl
end setAn

section countDraw
@[simp] theorem State.countDraw_err (s : State) :
    (s.countDraw).err = s.err := rfl
@[simp] theorem State.countDraw_cause (s : State) :
    (s.countDraw).cause = s.cause := rfl
@[simp] theorem State.countDraw_chg (s : State) :
    (s.countDraw).chg = s.chg := rfl
@[simp] theorem State.countDraw_initDone (s : State) :
    (s.countDraw).initDone = s.initDone := rfl
@[simp] theorem State.countDraw_arg0 (s : State) :
    (s.countDraw).arg0 = s.arg0 := rfl
@[simp] theorem State.countDraw_result (s : State) :
    (s.countDraw).result = s.result := rfl
@[simp] theorem State.countDraw_rate (s : State) :
    (s.countDraw).rate = s.rate := rfl
@[simp] theorem State.countDraw_nchan (s : State) :
    (s.countDraw).nchan = s.nchan := rfl
@[simp] theorem State.countDraw_ctl (s : State) :
    (s.countDraw).ctl = s.ctl := rfl
@[simp] theorem State.countDraw_ch (s : State) :
    (s.countDraw).ch = s.ch := rfl
@[simp] theorem State.countDraw_an (s : State) :
    (s.countDraw).an = s.an := rfl
@[simp] theorem State.countDraw_mem (s : State) :
    (s.countDraw).mem = s.mem := rfl
@[simp] theorem State.countDraw_bus (s : State) :
    (s.countDraw).bus = s.bus := rfl
@[simp] theorem State.countDraw_rdata (s : State) :
    (s.countDraw).rdata = s.rdata := rfl
@[simp] theorem State.countDraw_draws (s : State) :
    (s.countDraw).draws = s.draws + 1 := rfl
end countDraw

section initialise
@[simp] theorem initialise_err (P : Params) (nch : Nat) (s : State) :
    (initialise P nch s).err = s.err := rfl
@[simp] theorem initialise_cause (P : Params) (nch : Nat) (s : State) :
    (initialise P nch s).cause = s.cause := rfl
@[simp] theorem initialise_chg (P : Params) (nch : Nat) (s : State) :
    (initialise P nch s).chg = false := rfl
@[simp] theorem initialise_initDone (P : Params) (nch : Nat) (s : State) :
    (initialise P nch s).initDone = true := rfl
@[simp] theorem initialise_arg0 (P : Params) (nch : Nat) (s : State) :
    (initialise P nch s).arg0 = s.arg0 := rfl
@[simp] theorem initialise_result (P : Params) (nch : Nat) (s : State) :
    (initialise P nch s).result = s.result := rfl
@[simp] theorem initialise_rate (P : Params) (nch : Nat) (s : State) :
    (initialise P nch s).rate = s.arg0 := rfl
@[simp] theorem initialise_nchan (P : Params) (nch : Nat) (s : State) :
    (initialise P nch s).nchan = Fin.ofNat _ nch := rfl
@[simp] theorem initialise_ctl (P : Params) (nch : Nat) (s : State) :
    (initialise P nch s).ctl = s.ctl := rfl
@[simp] theorem initialise_ch (P : Params) (nch : Nat) (s : State) :
    (initialise P nch s).ch = List.replicate Config.nChanMax (Chan.initial P s.ctl s.arg0F) := rfl
@[simp] theorem initialise_an (P : Params) (nch : Nat) (s : State) :
    (initialise P nch s).an = s.an.initial P s.arg0F := rfl
@[simp] theorem initialise_mem (P : Params) (nch : Nat) (s : State) :
    (initialise P nch s).mem = s.mem := rfl
@[simp] theorem initialise_bus (P : Params) (nch : Nat) (s : State) :
    (initialise P nch s).bus = s.bus := rfl
@[simp] theorem initialise_rdata (P : Params) (nch : Nat) (s : State) :
    (initialise P nch s).rdata = s.rdata := rfl
@[simp] theorem initialise_draws (P : Params) (nch : Nat) (s : State) :
    (initialise P nch s).draws = s.draws := rfl
end initialise

end Sys2Proof.Machine
end

