-- ==== Sys2Proof/Laws/Ops.lean ====
section
/-! SUPPORT. What the shared operations can do: running a command, checking it, the sample recursions,
and the lengths they keep. -/

namespace Sys2Proof.Machine

@[simp] theorem runCommand_error (c : Cause) (f : State → State) (s : State) :
    runCommand (some c) f s = .next (s.raise c) := rfl

@[simp] theorem runCommand_ok (f : State → State) (s : State) :
    runCommand none f s = .next (f s) := rfl

/-- Everything a command can do: record its error, or have its effect. -/
theorem runCommand_next {e : Option Cause} {f : State → State} {s t : State}
    (h : runCommand e f s = .next t) : (∃ c, e = some c ∧ t = s.raise c) ∨ (e = none ∧ t = f s) := by
  cases e with
  | none => exact .inr ⟨rfl, by simpa using h.symm⟩
  | some c => exact .inl ⟨c, rfl, by simpa using h.symm⟩

/-- A command always ends in a next state. -/
theorem runCommand_completes (e : Option Cause) (f : State → State) (s : State) :
    ∃ t, runCommand e f s = .next t := by
  cases e with
  | none => exact ⟨_, rfl⟩
  | some c => exact ⟨_, rfl⟩

@[simp] theorem commandError_notInit {s : State} (h : s.initDone = false) (ok : Bool) :
    s.commandError ok = some .notInit := by simp [State.commandError, h]

@[simp] theorem commandError_badOperand {s : State} (h : s.initDone = true) :
    s.commandError false = some .badOperand := by simp [State.commandError, h]

@[simp] theorem commandError_ok {s : State} (h : s.initDone = true) : s.commandError true = none := by
  simp [State.commandError, h]

/-- The only errors a command other than `nop` and `init` raises. -/
theorem commandError_some {s : State} {ok : Bool} {c : Cause} (h : s.commandError ok = some c) :
    (c = .notInit ∧ s.initDone = false) ∨ (c = .badOperand ∧ s.initDone = true ∧ ok = false) := by
  cases hi : s.initDone <;> cases ok <;> simp_all [State.commandError]

@[simp] theorem scanBlock_length {σ α β : Type} (f : σ → α → σ × β) (xs : List α) :
    ∀ st, (scanBlock f st xs).2.length = xs.length := by
  induction xs with
  | nil => intro st; rfl
  | cons x xs ih => intro st; simp [scanBlock, ih]

/-- An invariant of the recursion's state survives a block. -/
theorem scanBlock_state {σ α β : Type} {f : σ → α → σ × β} {I : σ → Prop}
    (h : ∀ st x, I st → I (f st x).1) (xs : List α) : ∀ st, I st → I (scanBlock f st xs).1 := by
  induction xs with
  | nil => intro st hs; exact hs
  | cons x xs ih => intro st hs; exact ih _ (h _ _ hs)

@[simp] theorem mapFrom_length {α β : Type} (f : Nat → α → β) (xs : List α) :
    ∀ j, (mapFrom f j xs).length = xs.length := by
  induction xs with
  | nil => intro j; rfl
  | cons x xs ih => intro j; simp [mapFrom, ih]

@[simp] theorem audioBlock_length (P : Params) (s : State) (c off k : Nat) :
    (s.audioBlock P c off k).length = k := by simp [State.audioBlock]

/-- A channel record that was replaced is read back; the others are as before. -/
theorem chan_setChan {s : State} {c d : Nat} (x : Chan) (h : c < s.ch.length) :
    (s.setChan c x).chan d = if d = c then x else s.chan d := by
  simp only [State.chan, State.setChan_ch, List.getD_eq_getElem?_getD, List.getElem?_set]
  by_cases hd : c = d
  · subst hd; simp [h]
  · have hd' : d ≠ c := fun e => hd e.symm
    simp [hd, hd']

end Sys2Proof.Machine
end

