-- ==== Sys2Proof/Laws/Channel.lean ====
section
/-! SUPPORT. What the channel processor can do: it keeps the number of samples, and it changes only the
channel records, AUDIO, CHG and the draw counter. -/

namespace Sys2Proof.Machine

/-- A sample leaves a band's coefficients alone (41_band.md R175). -/
@[simp] theorem Band.sample_s1 (B : Band) (x : F32) : (B.sample x).1.s1 = B.s1 := rfl
@[simp] theorem Band.sample_s2 (B : Band) (x : F32) : (B.sample x).1.s2 = B.s2 := rfl
@[simp] theorem Band.sample_a (B : Band) (x : F32) : (B.sample x).1.a = B.a := rfl

/-- A band's output is that of its second section on that of its first (41_band.md R176). -/
theorem Band.sample_out (B : Band) (x : F32) : (B.sample x).2 =
    (latticeSection B.s1 B.s2 B.a B.z2 B.z3
      (latticeSection B.s1 B.s2 B.a B.z0 B.z1 x).2.2).2.2 := rfl

@[simp] theorem Band.apply_nil (B : Band) : B.apply [] = (B, []) := rfl
theorem Band.apply_cons (B : Band) (x : F32) (xs : List F32) : B.apply (x :: xs) =
    (((B.sample x).1.apply xs).1, (B.sample x).2 :: ((B.sample x).1.apply xs).2) := rfl

/-- A sample leaves a shelf's coefficients alone (40_shelf.md R148). -/
@[simp] theorem Shelf.sample_b0 (S : Shelf) (x : F32) : (S.sample x).1.b0 = S.b0 := rfl
@[simp] theorem Shelf.sample_b1 (S : Shelf) (x : F32) : (S.sample x).1.b1 = S.b1 := rfl
@[simp] theorem Shelf.sample_b2 (S : Shelf) (x : F32) : (S.sample x).1.b2 = S.b2 := rfl
@[simp] theorem Shelf.sample_a1 (S : Shelf) (x : F32) : (S.sample x).1.a1 = S.a1 := rfl
@[simp] theorem Shelf.sample_a2 (S : Shelf) (x : F32) : (S.sample x).1.a2 = S.a2 := rfl

@[simp] theorem Shelf.apply_nil (S : Shelf) : S.apply [] = (S, []) := rfl
theorem Shelf.apply_cons (S : Shelf) (x : F32) (xs : List F32) : S.apply (x :: xs) =
    (((S.sample x).1.apply xs).1, (S.sample x).2 :: ((S.sample x).1.apply xs).2) := rfl

@[simp] theorem gainRamp_length (gp gn : F32) (w : List F32) :
    (gainRamp gp gn w).length = w.length := by simp [gainRamp]

@[simp] theorem Hplp.run_length (P : Params) (x : HplpKind) (r : HplpControls) (rate : F32) (F : Hplp)
    (w : List F32) : (F.run P x r rate w).2.length = w.length := by
  simp only [Hplp.run, Hplp.compute]
  split <;> simp

@[simp] theorem Band.run_length (P : Params) (r : BandControls) (rate : F32) (B : Band) (w : List F32) :
    (B.run P r rate w).2.1.length = w.length := by simp [Band.run, Band.apply]

@[simp] theorem Shelf.run_length (P : Params) (x : ShelfKind) (r : ShelfControls) (rate : F32)
    (S : Shelf) (w : List F32) : (S.run P x r rate w).2.1.length = w.length := by
  simp [Shelf.run, Shelf.apply]

@[simp] theorem runBands_length (P : Params) (rate : F32) (rs : List BandControls) :
    ∀ (Bs : List Band) (w : List F32), (runBands P rate rs Bs w).2.1.length = w.length := by
  induction rs with
  | nil => intro Bs w; rfl
  | cons r rs ih =>
    intro Bs w
    cases Bs with
    | nil => rfl
    | cons B Bs => simp [runBands, ih]

@[simp] theorem runBands_bands_length (P : Params) (rate : F32) (rs : List BandControls) :
    ∀ (Bs : List Band) (w : List F32), (runBands P rate rs Bs w).1.length = Bs.length := by
  induction rs with
  | nil => intro Bs w; rfl
  | cons r rs ih =>
    intro Bs w
    cases Bs with
    | nil => rfl
    | cons B Bs => simp [runBands, ih]

@[simp] theorem Chan.chain_length (P : Params) (r : Controls) (rate : F32) (x : Chan) (w : List F32) :
    (x.chain P r rate w).2.1.length = w.length := by simp [Chan.chain]

theorem blendFrom_length (base step : F32) (k : Nat) (ds : List F32) :
    ∀ (j : Nat) (ws : List F32), (blendFrom base step k j ds ws).length = min ds.length ws.length := by
  induction ds with
  | nil => intro j ws; simp [blendFrom]
  | cons d ds ih =>
    intro j ws
    cases ws with
    | nil => simp [blendFrom]
    | cons w ws => simp [blendFrom, ih]

theorem blend_length (xo xn : Nat) {d w : List F32} (h : w.length = d.length) :
    (blend xo xn d w).length = d.length := by
  unfold blend
  split
  · exact h
  · rw [blendFrom_length, h, Nat.min_self]

/-- A sub-block gives as many samples as it takes, moves the crossfade counter by `xfStep` and keeps the
number of bands. -/
theorem Chan.subblock_some {P : Params} {r : Controls} {rate : F32} {x y : Chan} {d w : List F32}
    {b : Bool} (h : x.subblock P r rate d = some (y, w, b)) :
    w.length = d.length ∧ y.xf = xfStep r.globalEn x.xf ∧ y.gs = gainNext r.globalGainDb x.gs ∧
      y.bands.length = x.bands.length := by
  unfold Chan.subblock at h
  simp only at h
  split at h
  · cases h
  · simp only [Option.some.injEq, Prod.mk.injEq] at h
    obtain ⟨rfl, rfl, -⟩ := h
    exact ⟨blend_length _ _ (by simp), rfl, rfl, by simp [Chan.chain]⟩

/-- Everything one sub-block of one channel can do to the machine. -/
theorem chSubblock_cases (P : Params) (off k : Nat) (s : State) (c : Nat) :
    chSubblock P off k s c = s ∨
      ∃ x w b, (s.chan c).subblock P s.ctl s.rateF (s.audioBlock P c off k) = some (x, w, b) ∧
        w.length = k ∧ chSubblock P off k s c = ((s.setChan c x).writeAudio P c off w).orChg b := by
  unfold chSubblock
  split
  · exact .inl rfl
  · rename_i x w b h
    exact .inr ⟨x, w, b, h, by simpa using (Chan.subblock_some h).1, rfl⟩

/-- The fields a sub-block leaves alone. -/
structure SameButAudio (s t : State) : Prop where
  err : t.err = s.err
  cause : t.cause = s.cause
  initDone : t.initDone = s.initDone
  arg0 : t.arg0 = s.arg0
  result : t.result = s.result
  rate : t.rate = s.rate
  nchan : t.nchan = s.nchan
  ctl : t.ctl = s.ctl
  an : t.an = s.an
  bus : t.bus = s.bus
  rdata : t.rdata = s.rdata
  ch_length : t.ch.length = s.ch.length

theorem SameButAudio.refl (s : State) : SameButAudio s s := by constructor <;> rfl

theorem SameButAudio.trans {s t u : State} (h : SameButAudio s t) (g : SameButAudio t u) :
    SameButAudio s u where
  err := g.err.trans h.err
  cause := g.cause.trans h.cause
  initDone := g.initDone.trans h.initDone
  arg0 := g.arg0.trans h.arg0
  result := g.result.trans h.result
  rate := g.rate.trans h.rate
  nchan := g.nchan.trans h.nchan
  ctl := g.ctl.trans h.ctl
  an := g.an.trans h.an
  bus := g.bus.trans h.bus
  rdata := g.rdata.trans h.rdata
  ch_length := g.ch_length.trans h.ch_length

/-- A relation that each step of a fold has, and that is reflexive and transitive, holds of the fold. -/
theorem foldl_rel {α β : Type} {f : β → α → β} {R : β → β → Prop} (hr : ∀ s, R s s)
    (ht : ∀ s t u, R s t → R t u → R s u) (xs : List α) (h : ∀ s, ∀ x ∈ xs, R s (f s x)) :
    ∀ s, R s (xs.foldl f s) := by
  induction xs with
  | nil => intro s; exact hr s
  | cons x xs ih =>
    intro s
    exact ht _ _ _ (h s x (List.mem_cons_self ..))
      (ih (fun s y hy => h s y (List.mem_cons_of_mem _ hy)) _)

theorem chSubblock_same (P : Params) (off k : Nat) (s : State) (c : Nat) :
    SameButAudio s (chSubblock P off k s c) := by
  rcases chSubblock_cases P off k s c with h | ⟨x, w, b, -, -, h⟩
  · rw [h]; exact .refl s
  · rw [h]; constructor <;> simp

theorem subblockAll_same (P : Params) (s : State) (b : Nat × Nat) :
    SameButAudio s (subblockAll P s b) :=
  foldl_rel SameButAudio.refl (fun _ _ _ => SameButAudio.trans) _
    (fun s c _ => chSubblock_same P b.1 b.2 s c) s

/-- `process` changes only channel records, AUDIO, CHG and the draw counter. -/
theorem processSamples_same (P : Params) (n : Nat) (s : State) :
    SameButAudio s (processSamples P n s) :=
  SameButAudio.trans (t := { s with chg := false }) (by constructor <;> rfl)
    (foldl_rel SameButAudio.refl (fun _ _ _ => SameButAudio.trans) _
      (fun s b _ => subblockAll_same P s b) _)

end Sys2Proof.Machine
end

