-- ==== Sys2Proof/Laws/Exec.lean ====
section
/-! SUPPORT. Everything a command and a step can do, said once: a command records an error or has its
effect; a step is one host access. -/

namespace Sys2Proof.Machine

/-- What a command does when it raises no error. -/
def effectOf : Instr → State → State
  | .nop, s => s
  | .init nch, s => initialise Config.params nch s
  | .process n, s => processSamples Config.params n s
  | .anWrite c n, s => writeAnalyser Config.params c n s
  | .anSkip n, s => s.setAn (s.an.skip n)
  | .anSetlen n, s => s.setAn (s.an.setLen Config.params n s.rateF)
  | .anSetwarp, s => (s.setAn (s.an.setWarp (drawNan Config.params s.draws 0) s.arg0F)).countDraw
  | .anSetspeed, s =>
    (s.setAn
      (s.an.setSpeed Config.params (drawNan Config.params s.draws 0) s.arg0F s.rateF)).countDraw
  | .anClrpeak, s => s.setAn s.an.clearPeak
  | .respBand i c, s =>
    s.setResult Config.params (((s.chan c).band i).resp Config.params s.arg0F s.rateF)
  | .respLs c, s => s.setResult Config.params ((s.chan c).ls.resp Config.params s.arg0F s.rateF)
  | .respHs c, s => s.setResult Config.params ((s.chan c).hs.resp Config.params s.arg0F s.rateF)

/-- The error a command raises, if any. -/
def errorOf : Instr → State → Option Cause
  | .nop, _ => none
  | .init nch, s =>
    if 1 ≤ nch ∧ nch ≤ Config.nChanMax ∧ rateOk s.arg0F then none else some .badOperand
  | .process n, s => s.commandError (n ≤ Config.bufMax)
  | .anWrite c n, s => s.commandError (c < s.nchan.val && n ≤ Config.bufMax)
  | .anSkip _, s | .anSetlen _, s | .anSetwarp, s | .anSetspeed, s | .anClrpeak, s =>
    s.commandError true
  | .respBand i c, s => s.commandError (i < Config.nBands && c < s.nchan.val)
  | .respLs c, s | .respHs c, s => s.commandError (c < s.nchan.val)

/-- A command is its error check and its effect. -/
theorem exec_eq (i : Instr) (s : State) : exec i s = runCommand (errorOf i s) (effectOf i) s := by
  cases i <;> rfl

/-- Everything a command can do. -/
theorem exec_next {i : Instr} {s t : State} (h : exec i s = .next t) :
    (∃ c, errorOf i s = some c ∧ t = s.raise c) ∨ (errorOf i s = none ∧ t = effectOf i s) :=
  runCommand_next (exec_eq i s ▸ h)

/-- Everything a host write to a word other than CMD can do. -/
theorem busWrite_cases (a v : Word) (s : State) :
    busWrite a v s = s.raise .busFault ∨
      ∃ t, locate a = some t ∧ t.readOnly = false ∧ busWrite a v s = s.writeTarget v t := by
  unfold busWrite
  cases hl : locate a with
  | none => exact .inl rfl
  | some t =>
    cases hr : t.readOnly
    · exact .inr ⟨t, rfl, hr, by simp [hr]⟩
    · exact .inl (by simp [hr])

/-- Everything a host read can do. -/
theorem busRead_cases (P : Params) (a : Word) (s : State) :
    (locate a = none ∧ busRead P a s = { s.raise .busFault with rdata := 0 }) ∨
      ∃ t, locate a = some t ∧ busRead P a s = { s with rdata := s.readTarget P t } := by
  unfold busRead
  cases hl : locate a with
  | none => exact .inl ⟨rfl, rfl⟩
  | some t => exact .inr ⟨t, rfl, rfl⟩

/-- Everything a step can do: nothing, a read, a word that is no command, a command, or a write. -/
theorem step_cases {s t : State} (h : step s = .next t) :
    (s.bus = [] ∧ t = s) ∨
    (∃ a rest, s.bus = .read a :: rest ∧ t = busRead Config.params a { s with bus := rest }) ∨
    (∃ a v rest, s.bus = .write a v :: rest ∧ isCmd a = true ∧ (∃ e, decode v = .error e) ∧
      t = State.raise { s with bus := rest } .illegalCmd) ∨
    (∃ a v rest i, s.bus = .write a v :: rest ∧ isCmd a = true ∧ decode v = .ok i ∧
      exec i { s with bus := rest } = .next t) ∨
    (∃ a v rest, s.bus = .write a v :: rest ∧ isCmd a = false ∧
      t = busWrite a v { s with bus := rest }) := by
  unfold step at h
  split at h
  · rename_i hb
    exact .inl ⟨hb, by simpa using h.symm⟩
  · rename_i a rest hb
    exact .inr (.inl ⟨a, rest, hb, by simpa using h.symm⟩)
  · rename_i a v rest hb
    split at h
    · rename_i hc
      unfold execute at h
      split at h
      · rename_i i hi
        exact .inr (.inr (.inr (.inl ⟨a, v, rest, i, hb, hc, hi, h⟩)))
      · rename_i e he
        exact .inr (.inr (.inl ⟨a, v, rest, hb, hc, ⟨e, he⟩, by simpa using h.symm⟩))
    · rename_i hc
      exact .inr (.inr (.inr (.inr ⟨a, v, rest, hb, by simpa using hc, by simpa using h.symm⟩)))

end Sys2Proof.Machine
end

