-- ==== Sys2Proof/Laws/Float.lean ====
section
/-! SUPPORT. The laws of the float type that other proofs cite: patterns and values convert into each
other, and a clamped value is a number in the range. -/

namespace Sys2Proof

/-- A drawn NaN pattern is a NaN whatever is drawn (00_scope.md R13). -/
theorem F32.ofWord_quietNan (d : BitVec 23) : F32.ofWord (quietNan d) = .nan := by
  have h : (quietNan d).toNat =
      (d.toNat / 2 ^ 22 % 2) * 2 ^ 31 + 0x1FF * 2 ^ 22 + d.toNat % 2 ^ 22 := by
    have h9 : d.toNat / 2 ^ 22 % 2 ^ 1 * 2 ^ 9 ||| 511 % 2 ^ 9 = d.toNat / 2 ^ 22 % 2 * 2 ^ 9 + 511 := by
      rw [← Nat.shiftLeft_eq, ← Nat.shiftLeft_add_eq_or_of_lt (by omega), Nat.shiftLeft_eq]; norm_num
    simp only [quietNan, BitVec.toNat_append, BitVec.extractLsb'_toNat, BitVec.toNat_ofNat,
      Nat.shiftRight_eq_div_pow, Nat.shiftLeft_eq, h9]
    rw [← Nat.shiftLeft_eq _ 22, ← Nat.shiftLeft_add_eq_or_of_lt (by omega), Nat.shiftLeft_eq]
    omega
  simp only [F32.ofWord, Flt.ofPattern, h, Fmt.b32, Fmt.infMag]
  rw [if_pos (by omega)]

/-- A value stored as a pattern is read back as the same value (20_memory.md R87). -/
theorem F32.ofWord_toWord (v : F32) (d : BitVec 23) : F32.ofWord (v.toWord (quietNan d)) = v := by
  cases v with
  | nan =>
    have h : Flt.toWord (quietNan d) .nan = quietNan d := by simp [Flt.toWord, Flt.toPattern]
    rw [h, F32.ofWord_quietNan]
  | num s m =>
    obtain ⟨m, hm⟩ := m
    have hm' : m ≤ 2139095040 := by simpa [Fmt.b32, Fmt.infMag, Nat.lt_succ_iff] using hm
    cases s <;>
    · simp only [F32.ofWord, Flt.ofPattern, Flt.toWord, Flt.toPattern, Fmt.b32, Fmt.infMag,
        BitVec.toNat_ofNat, Flt.ofMag]
      rw [if_neg (by simp; omega)]
      congr 1
      · simp; omega
      · apply Fin.ext; simp; omega

/-- The pattern of a number is the pattern it was read from. -/
theorem F32.toWord_ofWord {w : Word} (h : (F32.ofWord w).isNan = false) (nan : Word) :
    (F32.ofWord w).toWord nan = w := by
  have hw := w.isLt
  simp only [F32.ofWord, Flt.ofPattern, Fmt.b32, Fmt.infMag] at h ⊢
  split at h
  · simp [Flt.isNan] at h
  · rename_i hle
    rw [if_neg hle]
    apply BitVec.eq_of_toNat_eq
    simp only [Flt.toWord, Flt.ofMag, Flt.toPattern, BitVec.toNat_ofNat, Fmt.infMag]
    have h2 : w.toNat / 2 ^ (23 + 8) % 2 = 0 ∨ w.toNat / 2 ^ (23 + 8) % 2 = 1 := by omega
    rcases h2 with hs | hs <;> simp only [hs, decide_eq_true_eq] <;> norm_num <;> omega

namespace Flt

variable {f : Fmt}

/-- A clamped value is not a NaN when the bounds are numbers (00_scope.md R15). -/
theorem clamp_isNan {v lo hi : Flt f} (hl : lo.isNan = false) (hh : hi.isNan = false) :
    (v.clamp lo hi).isNan = false := by
  unfold clamp
  repeat' split
  all_goals simp_all

/-- A clamped value lies between the bounds (00_scope.md R15). -/
theorem clamp_mem {v lo hi : Flt f} (hl : lo.isNan = false) (hh : hi.isNan = false)
    (h : lo.key ≤ hi.key) : lo.le (v.clamp lo hi) = true ∧ (v.clamp lo hi).le hi = true := by
  unfold clamp
  repeat' split
  all_goals simp_all [lt, le, gt]

end Flt

end Sys2Proof
end

