-- ==== Sys2Proof/Laws/PerInstr.lean ====
section
/-! SUPPORT. Statements made of every instruction as syntax, one lemma per constructor. The family
`EncodeOpcode`: the word of a well-formed command lies in the row the opcode table gives it
(30_encoding.md R115). -/

namespace Sys2Proof.Laws

/-- The opcode of the row of `i` in 30_encoding.md R115. -/
def opcodeOf : Instr → Nat
  | .nop => 0x00
  | .init _ => 0x01
  | .process _ => 0x10
  | .anWrite _ _ => 0x20
  | .anSkip _ => 0x21
  | .anSetlen _ => 0x22
  | .anSetwarp => 0x23
  | .anSetspeed => 0x24
  | .anClrpeak => 0x25
  | .respBand _ _ => 0x30
  | .respLs _ => 0x31
  | .respHs _ => 0x32

/-- The fields of a packed word (30_encoding.md R110). -/
theorem packFields_fields {opc sel imm : Nat} (ho : opc < 2 ^ 8) (hs : sel < 2 ^ 4)
    (hi : imm < 2 ^ 20) :
    (packFields opc sel imm).opc = opc ∧ (packFields opc sel imm).sel = sel ∧
      (packFields opc sel imm).imm = imm := by
  simp only [Word.opc, Word.sel, Word.imm, packFields, BitVec.toNat_ofNat]
  omega

/-- The word of a well-formed command carries its opcode. -/
def EncodeOpcode.Statement (i : Instr) : Prop :=
  i.wellFormed = true → (encode i).opc = opcodeOf i

theorem EncodeOpcode.nop : EncodeOpcode.Statement .nop := fun _ => by decide

theorem EncodeOpcode.init (nch : Nat) : EncodeOpcode.Statement (.init nch) := fun h =>
  (packFields_fields (by decide) (by simpa [Instr.wellFormed] using h) (by decide)).1

theorem EncodeOpcode.process (n : Nat) : EncodeOpcode.Statement (.process n) := fun h =>
  (packFields_fields (by decide) (by decide) (by simpa [Instr.wellFormed] using h)).1

theorem EncodeOpcode.anWrite (c n : Nat) : EncodeOpcode.Statement (.anWrite c n) := fun h => by
  have h' : c < 2 ^ 4 ∧ n < 2 ^ 20 := by simpa [Instr.wellFormed] using h
  exact (packFields_fields (by decide) h'.1 h'.2).1

theorem EncodeOpcode.anSkip (n : Nat) : EncodeOpcode.Statement (.anSkip n) := fun h =>
  (packFields_fields (by decide) (by decide) (by simpa [Instr.wellFormed] using h)).1

theorem EncodeOpcode.anSetlen (n : Nat) : EncodeOpcode.Statement (.anSetlen n) := fun h =>
  (packFields_fields (by decide) (by decide) (by simpa [Instr.wellFormed] using h)).1

theorem EncodeOpcode.anSetwarp : EncodeOpcode.Statement .anSetwarp := fun _ => by decide

theorem EncodeOpcode.anSetspeed : EncodeOpcode.Statement .anSetspeed := fun _ => by decide

theorem EncodeOpcode.anClrpeak : EncodeOpcode.Statement .anClrpeak := fun _ => by decide

theorem EncodeOpcode.respBand (i c : Nat) : EncodeOpcode.Statement (.respBand i c) := fun h => by
  have h' : i < 2 ^ 4 ∧ c < 2 ^ 20 := by simpa [Instr.wellFormed] using h
  exact (packFields_fields (by decide) h'.1 h'.2).1

theorem EncodeOpcode.respLs (c : Nat) : EncodeOpcode.Statement (.respLs c) := fun h =>
  (packFields_fields (by decide) (by decide) (by simpa [Instr.wellFormed] using h)).1

theorem EncodeOpcode.respHs (c : Nat) : EncodeOpcode.Statement (.respHs c) := fun h =>
  (packFields_fields (by decide) (by decide) (by simpa [Instr.wellFormed] using h)).1

end Sys2Proof.Laws
end

