-- ==== Sys2Proof/Laws/Transform.lean ====
section
/-! SUPPORT. Every choice of FFT_R2C keeps its error bound (45_analyser.md R289). -/

namespace Sys2Proof

/-- The sum of a list of magnitudes bounds a weighted sum of its terms with weights in [-1, 1]. -/
theorem abs_weighted_sum_le (v : List F32) (w : Nat → ℝ) (hw : ∀ n, |w n| ≤ 1) :
    |∑ n ∈ Finset.range v.length, ((v.getD n (Flt.zero false)).toRat : ℝ) * w n| ≤
      (((v.map fun x => |x.toRat|).sum : Rat) : ℝ) := by
  have hs : (((v.map fun x => |x.toRat|).sum : Rat) : ℝ) =
      ∑ n ∈ Finset.range v.length, |((v.getD n (Flt.zero false)).toRat : ℝ)| := by
    clear hw
    induction v with
    | nil => simp
    | cons x xs ih =>
      rw [List.length_cons, Finset.sum_range_succ']
      simp [ih, add_comm]
  rw [hs]
  refine (Finset.abs_sum_le_sum_abs _ _).trans (Finset.sum_le_sum fun n _ => ?_)
  rw [abs_mul]
  exact mul_le_of_le_one_right (abs_nonneg _) (hw n)

/-- The parameter keeps its own bound, whichever choice it is. -/
theorem Fft.within (F : Fft) : WithinBound F.run F.bound := by
  cases F with
  | given run bound within => exact within
  | coarse =>
    intro v k _ _
    refine ⟨fun _ => ⟨rfl, ?_⟩, fun _ => ⟨rfl, ?_⟩⟩
    · simpa [Fft.run, Fft.bound, Cplx.zero, Flt.zero, Flt.ofMag, Flt.toRat, Flt.sig, dftRe] using
        abs_weighted_sum_le v _ fun n => Real.abs_cos_le_one _
    · simpa [Fft.run, Fft.bound, Cplx.zero, Flt.zero, Flt.ofMag, Flt.toRat, Flt.sig, dftIm] using
        abs_weighted_sum_le v _ fun n => Real.abs_sin_le_one _

end Sys2Proof
end

