-- ==== Sys2Proof/Machine/AsmText.lean ====
section
/-! DEFINITION. Host programs as text (30_encoding.md R119 to R121): lines of characters are read into the
statements of Machine/Assembler.lean. Text is a list of characters; spelling the spec leaves open is
log entry 19. -/

namespace Sys2Proof.Machine

/-- The pieces between the occurrences of a character. -/
def splitChars (c : Char) : List Char → List (List Char)
  | [] => [[]]
  | x :: xs =>
    match splitChars c xs with
    | [] => [[x]]
    | p :: ps => if x = c then [] :: p :: ps else (x :: p) :: ps

/-- True of a blank. -/
def isBlank (c : Char) : Bool := c == ' ' || c == '\t' || c == '\r'

/-- Text without the blanks at either end. -/
def trimBlanks (t : List Char) : List Char :=
  ((t.dropWhile isBlank).reverse.dropWhile isBlank).reverse

/-- A line without its comment (R119). -/
def dropComment (t : List Char) : List Char := t.takeWhile fun c => c != ';'

/-- The text before the first `->`, and the text after it where there is one (R119). -/
def splitShown : List Char → List Char × Option (List Char)
  | '-' :: '>' :: t => ([], some t)
  | c :: cs => (c :: (splitShown cs).1, (splitShown cs).2)
  | [] => ([], none)

/-- The value of a digit in base 16. -/
def digitValue (c : Char) : Option Nat :=
  if '0' ≤ c ∧ c ≤ '9' then some (c.toNat - '0'.toNat)
  else if 'a' ≤ c ∧ c ≤ 'f' then some (c.toNat - 'a'.toNat + 10)
  else if 'A' ≤ c ∧ c ≤ 'F' then some (c.toNat - 'A'.toNat + 10)
  else none

/-- The number that digits after the number `acc` give, in a base. -/
def digitsFrom (base : Nat) : Nat → List Char → Option Nat
  | acc, [] => some acc
  | acc, c :: cs =>
    match digitValue c with
    | some d => if d < base then digitsFrom base (acc * base + d) cs else none
    | none => none

/-- A number of one digit or more. -/
def parseDigits (base : Nat) (t : List Char) : Option Nat :=
  if t.isEmpty then none else digitsFrom base 0 t

/-- An integer, decimal or `0x` hexadecimal (R119). -/
def parseInteger : List Char → Option Nat
  | '0' :: 'x' :: ds => parseDigits 16 ds
  | ds => parseDigits 10 ds

/-- A decimal without sign: digits, a point and digits, and an exponent, as digits and a scale. -/
def parseUnsigned (t : List Char) : Option (Nat × Nat) :=
  let mantissa (m : List Char) : Option (Nat × Nat) :=
    match splitChars '.' m with
    | [a] => (parseDigits 10 a).map fun n => (n, 0)
    | [a, b] => (parseDigits 10 (a ++ b)).map fun n => (n, b.length)
    | _ => none
  match splitChars 'e' t with
  | [m] => mantissa m
  | [m, '-' :: e] =>
    match mantissa m, parseDigits 10 e with
    | some (n, k), some x => some (n, k + x)
    | _, _ => none
  | [m, e] =>
    match mantissa m, parseDigits 10 e with
    | some (n, k), some x => some (n * 10 ^ x, k)
    | _, _ => none
  | _ => none

/-- A decimal (R119, R121). -/
def parseDecimal : List Char → Option AsmValue
  | '-' :: t => (parseUnsigned t).map fun d => .dec true d.1 d.2
  | t => (parseUnsigned t).map fun d => .dec false d.1 d.2

/-- VALUE (R119). -/
def parseValue : List Char → Option AsmValue
  | 'f' :: ':' :: t => parseDecimal t
  | t => (parseInteger t).map .int

/-- The register names of 10_state.md R31 to R45, but for the bands. -/
def registerNames : List (String × Target) :=
  [("ID", .iface .id), ("STATUS", .iface .status), ("CMD", .iface .cmd), ("ARG0", .iface .arg0),
    ("RESULT", .iface .result), ("RATE", .iface .rate), ("NCHAN", .iface .nchan),
    ("HWCFG", .iface .hwcfg), ("AN_FFTLEN", .iface .anFftlen), ("AN_WARP", .iface .anWarp),
    ("AN_SPEED", .iface .anSpeed), ("AN_PMAX", .iface .anPmax)] ++
  [("GLOBAL_EN", .ctl .globalEn), ("GLOBAL_GAIN_DB", .ctl .globalGainDb), ("HP_EN", .ctl .hpEn),
    ("HP_FREQ", .ctl .hpFreq), ("HP_RES", .ctl .hpRes), ("LP_EN", .ctl .lpEn),
    ("LP_FREQ", .ctl .lpFreq), ("LP_RES", .ctl .lpRes), ("LS_EN", .ctl .lsEn),
    ("LS_FREQ", .ctl .lsFreq), ("LS_Q", .ctl .lsQ), ("LS_GAIN_DB", .ctl .lsGainDb),
    ("HS_EN", .ctl .hsEn), ("HS_FREQ", .ctl .hsFreq), ("HS_Q", .ctl .hsQ),
    ("HS_GAIN_DB", .ctl .hsGainDb), ("AN_PHOLD", .ctl .anPhold)]

/-- The register of band `i` by the rest of its name (10_state.md R45). -/
def bandName (i : Nat) (rest : String) : Option Target :=
  match rest with
  | "EN" => some (.ctl (.bandEn i))
  | "FREQ" => some (.ctl (.bandFreq i))
  | "BW" => some (.ctl (.bandBw i))
  | "GAIN_DB" => some (.ctl (.bandGainDb i))
  | _ => none

/-- An index and its closing bracket. -/
def parseIndex (t : List Char) : Option Nat :=
  match t.reverse with
  | ']' :: ds => parseDigits 10 ds.reverse
  | _ => none

/-- A memory word's name and its indexes (R119); only words that exist have a name. -/
def parseWordName (name : String) (indexes : List Nat) : Option Target :=
  match name, indexes with
  | "AUDIO", [c, j] => if c < Config.nChanMax ∧ j < Config.bufMax then some (.audio c j) else none
  | "AN_POWER", [k] => if k ≤ Config.fftMax / 2 then some (.power k) else none
  | "AN_PEAK", [k] => if k ≤ Config.fftMax / 2 then some (.peak k) else none
  | _, _ => none

/-- The values of a list of results, refused when one is. -/
def allSome {α : Type} : List (Option α) → Option (List α)
  | [] => some []
  | x :: xs =>
    match x, allSome xs with
    | some a, some as => some (a :: as)
    | _, _ => none

/-- A name of a register or of a memory word (R119). -/
def parseName (t : List Char) : Option Target :=
  match splitChars '[' t with
  | [n] =>
    match n with
    | 'B' :: 'A' :: 'N' :: 'D' :: '_' :: d :: '_' :: rest =>
      match digitValue d with
      | some i => if i < Config.nBands then bandName i (String.ofList rest) else none
      | none => none
    | _ => (registerNames.find? fun e => e.1 == String.ofList n).map Prod.snd
  | n :: is =>
    match allSome (is.map parseIndex) with
    | some ks => parseWordName (String.ofList n) ks
    | none => none
  | [] => none

/-- ADDR (R119). -/
def parseAddr (t : List Char) : Option AsmAddr :=
  match parseName t with
  | some x => some (.name x)
  | none => (parseInteger t).map .num

/-- `rd ADDR`, or a listing's `rd ADDR -> VALUE`, whose VALUE must be one of 32 bits and is then dropped,
being no part of the bus access (R119; log entry 19). -/
def parseRead (t : List Char) : Option Stmt :=
  match splitShown t with
  | (a, none) => (parseAddr a).map .rd
  | (a, some v) =>
    match parseAddr (trimBlanks a), (parseValue (trimBlanks v)).bind AsmValue.word with
    | some x, some _ => some (.rd x)
    | _, _ => none

/-- A statement from its first word and its operands (R119 to R121). -/
def parseStmt (word : String) (ops : List (List Char)) : Option Stmt :=
  match word, ops with
  | "wr", [a, v] =>
    match parseAddr a, parseValue v with
    | some x, some y => some (.wr x y)
    | _, _ => none
  | "rd", [a] => parseRead a
  | "nop", [] => some (.command .nop)
  | "init", [n] => (parseInteger n).map fun n => .command (.init n)
  | "process", [n] => (parseInteger n).map fun n => .command (.process n)
  | "an.write", [c, n] =>
    match parseInteger c, parseInteger n with
    | some c, some n => some (.command (.anWrite c n))
    | _, _ => none
  | "an.skip", [n] => (parseInteger n).map fun n => .command (.anSkip n)
  | "an.setlen", [n] => (parseInteger n).map fun n => .command (.anSetlen n)
  | "an.setwarp", [] => some (.command .anSetwarp)
  | "an.setspeed", [] => some (.command .anSetspeed)
  | "an.clrpeak", [] => some (.command .anClrpeak)
  | "resp.band", [i, c] =>
    match parseInteger i, parseInteger c with
    | some i, some c => some (.command (.respBand i c))
    | _, _ => none
  | "resp.ls", [c] => (parseInteger c).map fun c => .command (.respLs c)
  | "resp.hs", [c] => (parseInteger c).map fun c => .command (.respHs c)
  | "set", [n, v] =>
    match parseName n, parseValue v with
    | some x, some y => some (.set x y)
    | _, _ => none
  | "clrerr", [] => some .clrerr
  | "init.rate", [F, n] =>
    match parseDecimal F, parseInteger n with
    | some F, some n => some (.initRate F n)
    | _, _ => none
  | "an.warp", [F] => (parseDecimal F).map .anWarp
  | "an.speed", [F] => (parseDecimal F).map .anSpeed
  | "resp.band.at", [i, c, F] =>
    match parseInteger i, parseInteger c, parseDecimal F with
    | some i, some c, some F => some (.respBandAt i c F)
    | _, _, _ => none
  | "resp.ls.at", [c, F] =>
    match parseInteger c, parseDecimal F with
    | some c, some F => some (.respLsAt c F)
    | _, _ => none
  | "resp.hs.at", [c, F] =>
    match parseInteger c, parseDecimal F with
    | some c, some F => some (.respHsAt c F)
    | _, _ => none
  | ".word", [v] => (parseValue v).map .word
  | _, _ => none

/-- The operands of a line: separated by commas, none in an empty rest. -/
def parseOperands (t : List Char) : List (List Char) :=
  if (trimBlanks t).isEmpty then [] else (splitChars ',' t).map trimBlanks

/-- A line: its statements (one, or none on an empty line), refused when it is no statement (R119). Only
`rd` takes a `->`; any other line with one is refused (log entry 19). -/
def parseLine (line : List Char) : Option (List Stmt) :=
  let t := trimBlanks (dropComment line)
  if t.isEmpty then some []
  else
    (parseStmt (String.ofList (t.takeWhile fun c => !isBlank c))
      (parseOperands (t.dropWhile fun c => !isBlank c))).map fun x => [x]

/-- A host program's text (R119), refused when a line is. -/
def parseProgram (text : List Char) : Option (List Stmt) :=
  (allSome ((splitChars '\n' text).map parseLine)).map List.flatten

/-- The bus accesses of a host program's text. -/
def assembleText (text : String) : Option (List BusAccess) :=
  match parseProgram text.toList with
  | some p => assembleAll p
  | none => none

end Sys2Proof.Machine
end

