-- ==== Sys2Proof/Tests/Slice0.lean ====
section
/-! SUPPORT. Tests. Each expected value comes from the spec, named beside the test; then, for every
statement with hypotheses, a concrete state and operands that meet them. -/

namespace Sys2Proof.Tests

open Sys2Proof Sys2Proof.Machine

/-- A field of the state a command ends in. -/
def field {α : Type} (r : Result) (f : State → α) : Option α :=
  match r with
  | .next t => some (f t)
  | .fault _ => none
  | .refused _ => none

/-- After `init.rate 48000, 2`, as far as the tests need it. -/
def ready : State := { State.reset with initDone := true, rate := 0x473B8000, nchan := 2 }

/-- `ready` with a transform length of 16 and 32 bytes of +0.0 in AUDIO[0]. -/
def ready16 : State :=
  { ready with
    an := { ready.an with len := 16 }
    mem := (List.range 32).map fun i => (0x20000 + i, 0) }

/-- The binary32 value of a pattern. -/
def fl (w : Word) : F32 := F32.ofWord w

/-! ### Well-formedness: one ill-formed term for each check (30_encoding.md R120) -/

theorem test_illformed_init : (Instr.init 16).wellFormed = false := by decide
theorem test_illformed_process : (Instr.process 1048576).wellFormed = false := by decide
theorem test_illformed_anWrite_channel : (Instr.anWrite 16 0).wellFormed = false := by decide
theorem test_illformed_anWrite_count : (Instr.anWrite 0 1048576).wellFormed = false := by decide
theorem test_illformed_anSkip : (Instr.anSkip 1048576).wellFormed = false := by decide
theorem test_illformed_anSetlen : (Instr.anSetlen 1048576).wellFormed = false := by decide
theorem test_illformed_respBand_band : (Instr.respBand 16 0).wellFormed = false := by decide
theorem test_illformed_respBand_channel : (Instr.respBand 0 1048576).wellFormed = false := by decide
theorem test_illformed_respLs : (Instr.respLs 1048576).wellFormed = false := by decide
theorem test_illformed_respHs : (Instr.respHs 1048576).wellFormed = false := by decide

/-! ### Decoding: a word of each command written from R110 and R115 -/

theorem test_decode_nop : decode 0b00000000000000000000000000000000 = .ok .nop := by decide
theorem test_decode_init : decode 0b00000001001000000000000000000000 = .ok (.init 2) := by decide
theorem test_decode_process :
    decode 0b00010000000000000000000000101000 = .ok (.process 40) := by decide
theorem test_decode_anWrite :
    decode 0b00100000000100000000000000001000 = .ok (.anWrite 1 8) := by decide
theorem test_decode_anSkip :
    decode 0b00100001000011111111111111111111 = .ok (.anSkip 1048575) := by decide
theorem test_decode_anSetlen :
    decode 0b00100010000000000000000000010000 = .ok (.anSetlen 16) := by decide
theorem test_decode_anSetwarp :
    decode 0b00100011000000000000000000000000 = .ok .anSetwarp := by decide
theorem test_decode_anSetspeed :
    decode 0b00100100000000000000000000000000 = .ok .anSetspeed := by decide
theorem test_decode_anClrpeak :
    decode 0b00100101000000000000000000000000 = .ok .anClrpeak := by decide
theorem test_decode_respBand :
    decode 0b00110000001100000000000000000000 = .ok (.respBand 3 0) := by decide
theorem test_decode_respLs :
    decode 0b00110001000000000000000000000001 = .ok (.respLs 1) := by decide
theorem test_decode_respHs :
    decode 0b00110010000000000000000000000001 = .ok (.respHs 1) := by decide

/-- Reserved fields and undefined opcodes (R116, R117, R122; vector A-4 for 0x23000001). -/
theorem test_reject :
    decode 0x10100020 = .error .reservedField ∧ decode 0x01000001 = .error .reservedField ∧
      decode 0x23000001 = .error .reservedField ∧ decode 0x00000001 = .error .reservedField ∧
      decode 0x02000000 = .error .undefinedOpcode ∧ decode 0xFF000000 = .error .undefinedOpcode := by
  decide

/-! ### Instructions -/

/-- R320: `nop` clears no error. -/
theorem test_nop : field (exec .nop { ready with err := true, cause := .busFault })
    (fun t => (t.err, t.cause)) = some (true, .busFault) := by decide

/-- R321 example: `init.rate 48000, 2` leaves STATUS 0x00000008. -/
theorem test_init : field (exec (.init 2) { State.reset with arg0 := 0x473B8000 })
    (fun t => (t.rate, t.nchan.val, t.status)) = some (0x473B8000, 2, 0x00000008) := by decide

/-- R120: `init 3` assembles and raises BAD_OPERAND (code 3). -/
theorem test_init_badOperand : field (exec (.init 3) { ready with arg0 := 0x473B8000 })
    State.status = some 0x00000309 := by decide

/-- R251: `process 0` clears CHG and does nothing else. -/
theorem test_process_empty : field (exec (.process 0) { ready with chg := true })
    (fun t => (t.chg, t.mem, t.err)) = some (false, [], false) := by decide

/-- R251, R341: more than 8192 samples. -/
theorem test_process_badOperand : field (exec (.process 8193) ready) State.status =
    some 0x00000309 := by decide

/-- Program P3: eight samples on length 16 run a pass; STATUS is then 0x0000000C. -/
theorem test_anWrite_pass : field (exec (.anWrite 0 8) ready16)
    (fun t => (t.status, t.an.wr, t.an.pend)) = some (0x0000000C, 8, 0) := by decide

/-- Vector A-7: a channel that is not active. -/
theorem test_anWrite_badOperand : field (exec (.anWrite 1 8) { ready with nchan := 1 })
    (fun t => (t.status, t.an.wr)) = some (0x00000309, 0) := by decide

/-- R284: the write position wraps at 8192. -/
theorem test_anSkip_wraps : field (exec (.anSkip 100)
    { ready with an := { ready.an with wr := 8190, pend := 5, valid := true } })
    (fun t => (t.an.wr, t.an.pend, t.an.valid)) = some (98, 0, false) := by decide

/-- R298: N = 100 gives 64, N = 0 gives 16, N = 1048575 gives 8192. -/
theorem test_anSetlen : field (exec (.anSetlen 100) ready) (fun t => t.an.len) = some 64 := by decide
theorem test_anSetlen_clamps : anLength 0 = 16 ∧ anLength 1048575 = 8192 := by decide

/-- Vector A-4: a NaN gives -0.99 and 5.0 gives 0.99. -/
theorem test_anSetwarp_nan : field (exec .anSetwarp { ready with arg0 := 0x7FC00001 })
    (fun t => t.an.wfact) = some 0xBF7D70A4 := by decide
theorem test_anSetwarp_high : field (exec .anSetwarp { ready with arg0 := 0x40A00000 })
    (fun t => t.an.wfact) = some 0x3F7D70A4 := by decide

/-- Vector A-4: 0.0 gives 0.001 and 1e9 gives 100. -/
theorem test_anSetspeed_low : field (exec .anSetspeed { ready with arg0 := 0 })
    (fun t => t.an.speed) = some 0x3A83126F := by decide
theorem test_anSetspeed_high : field (exec .anSetspeed { ready with arg0 := 0x4E6E6B28 })
    (fun t => t.an.speed) = some 0x42C80000 := by decide

/-- R302: the peak trace reads zero, the valid flag stays. -/
theorem test_anClrpeak : field (exec .anClrpeak
    { ready with an := { ready.an with peak := [1, 2, 3], valid := true } })
    (fun t => (t.an.peak.getD 1 9, t.an.valid)) = some (0, true) := by decide

/-- R180, R341: a band that does not exist. -/
theorem test_respBand_badOperand : field (exec (.respBand 4 0) ready) State.status =
    some 0x00000309 := by decide

/-- R123: before `init` a response is NOT_INIT, even with a bad operand. -/
theorem test_respLs_notInit : field (exec (.respLs 7) State.reset) State.status =
    some 0x00000201 := by decide

/-- R152: RESULT is written and no flag changes. -/
theorem test_respHs : field (exec (.respHs 1) ready) (fun t => (t.status, t.draws)) =
    some (0x00000008, 1) := by decide

/-- R85, R88, R90, R91: the three bus faults, and STATUS cleared by its write. -/
theorem test_bus_faults :
    (busWrite 0x009 0 ready).status = 0x00000409 ∧ (busRead Config.params 0x030 ready).rdata = 0 ∧
      (busWrite 0x014 5 ready).rate = 0x473B8000 ∧ (busWrite 0x014 5 ready).err = true ∧
      (busWrite 0x004 1 (ready.raise .busFault)).status = 0x00000008 := by decide

/-! ### Operations -/

/-- Vector S-1. -/
theorem test_smooth : smooth (fl 0) (fl 0x3F800000) = fl 0x3C23D70A ∧
    smooth (fl 0x3F7D70A4) (fl 0x3F800000) = fl 0x3F7D7732 := by decide

/-- Vector S-5. -/
theorem test_gain : gainLin (fl 0x40C00000) = fl 0x3FFF64C8 ∧
    gainLin (fl 0xC1900000) = fl 0x3E00E9ED := by decide

/-- Vector X-1. -/
theorem test_subblocks : (subblocks 81).map Prod.snd = [32, 32, 17] ∧
    (subblocks 80).map Prod.snd = [32, 48] := by decide

/-- Vector A-5: pushing 1.0 and then 0.0 with WFACT = 0.5. -/
theorem test_warp :
    warpStep (fl 0xBF000000) [fl 0, fl 0, fl 0, fl 0] (fl 0x3F800000) =
      [fl 0x3F800000, fl 0xBF000000, fl 0x3E800000, fl 0xBE000000] ∧
    warpStep (fl 0xBF000000) [fl 0x3F800000, fl 0xBF000000, fl 0x3E800000, fl 0xBE000000] (fl 0) =
      [fl 0, fl 0x3F400000, fl 0xBF400000, fl 0x3F100000] := by decide

/-- R251 example: sample 39 of 40 with GS limited to 1.25 and XF going 0 to 1 is 0x3F820000. -/
theorem test_blend :
    (blend 0 1 (List.replicate 40 (fl 0x3F800000))
      (gainRamp (fl 0x3F800000) (gainNext 0x40C00000 (fl 0x3F800000))
        (List.replicate 40 (fl 0x3F800000))))[39]? = some (fl 0x3F820000) := by decide +kernel

/-- R119: `f:1.0` is 0x3F800000; R121: `init.rate 48000, 2`. -/
theorem test_assemble : (AsmValue.dec false 10 1).word = some 0x3F800000 ∧
    assemble (.initRate (.dec false 48000 0) 2) =
      some [.write 0x00C 0x473B8000, .write 0x008 0x01200000] := by decide

/-- R119 to R121: a program's text, and two lines the assembler refuses. -/
theorem test_assembleText :
    assembleText "init.rate 48000, 2 ; boot\nset BAND_2_GAIN_DB, f:-1.5\n\n rd AUDIO[1][3] -> 0x0" =
      some [.write 0x00C 0x473B8000, .write 0x008 0x01200000, .write 0x17C 0xBFC00000,
        .read 0x2800C] ∧
    assembleText "init 16" = none ∧ assembleText "wr STATUS 1" = none := by decide +kernel

/-- R119: `-> VALUE` belongs to `rd` alone, and what follows the arrow is a VALUE. -/
theorem test_assembleText_shown :
    assembleText "rd STATUS -> 0x00000008" = some [.read 0x004] ∧
      assembleText "rd STATUS -> y" = none ∧ assembleText "nop -> x" = none ∧
      assembleText "nop -> 0" = none := by decide +kernel

/-! ### Witnesses: states and operands that meet the hypotheses of the statements -/

theorem ready_chan_ok : ∀ x ∈ ready.ch, x.Ok := by
  intro x hx
  rw [List.eq_of_mem_replicate (hx : x ∈ List.replicate 2 Chan.reset)]
  exact ⟨by decide, by decide⟩

theorem ready_an_ok : ready.an.Ok where
  len_pow := ⟨13, by decide⟩
  len_min := by decide
  len_max := by decide
  wr_lt := by decide
  pend_lt := by decide
  wfact_le := by decide
  speed_ge := by decide
  speed_le := by decide
  ipbuf_length := List.length_replicate
  warpst_length := List.length_replicate
  power_length := List.length_replicate
  peak_length := List.length_replicate

theorem ready_inv : ready.Inv where
  ch_length := by decide
  ch_ok := ready_chan_ok
  an_ok := ready_an_ok
  bands_length := by decide
  mem_wf := Memory.wf_nil
  mem_audio := by intro e he; cases he

theorem ready16_inv : ready16.Inv where
  ch_length := by decide
  ch_ok := ready_chan_ok
  an_ok := { ready_an_ok with
    len_pow := ⟨4, by decide⟩, len_min := by decide, len_max := by decide, pend_lt := by decide }
  bands_length := by decide
  mem_wf := by decide
  mem_audio := by decide

theorem ready_consistent : ready.Consistent where
  cause_iff := by decide
  rate_set := by decide
  tail_zero := by
    intro k _
    simp [ready, State.reset, Analyser.reset, List.getD_eq_getElem?_getD, List.getElem?_replicate]
    split <;> rfl
  pmax_number := by decide
  peak_number := by
    intro p hp
    rw [List.eq_of_mem_replicate (hp : p ∈ List.replicate 4097 0)]
    decide

theorem witness_gainsPositive_sections : ready.GainsPositive ∧ ready.SectionsInRange := by
  constructor <;> intro x hx <;> rw [List.eq_of_mem_replicate (hx : x ∈ List.replicate 2 Chan.reset)]
  · decide
  · unfold Hplp.InRange; decide

theorem witness_DecodeReadsBackEncode : (Instr.anWrite 15 1048575).wellFormed = true := by decide

theorem witness_EncodeReadsBackDecode : decode 0x20FFFFFF = .ok (.anWrite 15 1048575) := by decide

theorem witness_DecoderFollowsMatchAndMask :
    decode 0x01F00000 = .ok (.init 15) ∧
      (0x01F00000 : Word) &&& (Instr.init 0).matchMask.2 = (Instr.init 0).matchMask.1 := by decide

theorem witness_IllegalWordOnlyRecordsTheError :
    { ready with bus := [.write cmdAddr 0x02000000] }.bus = .write cmdAddr 0x02000000 :: [] ∧
      ∀ i : Instr, (0x02000000 : Word) &&& i.matchMask.2 ≠ i.matchMask.1 :=
  ⟨rfl, fun i => by cases i <;> simp only [Instr.matchMask] <;> decide⟩

theorem witness_PseudoInstructionsExpand : (AsmValue.int 0xFFFFFFFF).word = some 0xFFFFFFFF ∧
    15 < 16 ∧ 1048575 < 2 ^ 20 := by decide

theorem witness_StepRunsTheDecodedCommand :
    { ready with bus := [.write cmdAddr 0x21000064] }.bus = .write cmdAddr 0x21000064 :: [] ∧
      decode 0x21000064 = .ok (.anSkip 100) ∧ (Instr.anSkip 100).wellFormed = true := by decide

/-- A target that exists has an address below 0x30 or from 0x100 on. -/
theorem mapped_addr {t : Target} (h : t.Mapped) : t.addr ≠ 0x30 := by
  cases t with
  | iface r => cases r <;> decide
  | ctl r => cases r <;> simp [Target.addr, CtlReg.addr] <;> omega
  | power k => simp only [Target.addr]; omega
  | peak k => simp only [Target.addr]; omega
  | audio c j => simp only [Target.addr, audioAddr]; omega

/-- A misaligned address next to CMD, and the first unmapped word after AN_PMAX, read and written. -/
theorem witness_BadAddressOnlyRecordsBusFault :
    (0x009 : Word).toNat % 4 ≠ 0 ∧ (∀ t : Target, t.Mapped → t.addr ≠ (0x030 : Word).toNat) ∧
      { ready with bus := [.read 0x030] }.bus = .read 0x030 :: [] ∧
      { ready with bus := [.write 0x009 7] }.bus = .write 0x009 7 :: [] :=
  ⟨by decide, fun _ h => mapped_addr h, rfl, rfl⟩

theorem witness_ReadOnlyWriteOnlyRecordsBusFault :
    (Target.iface .id).Mapped ∧ (Target.iface .id).addr = (0x000 : Word).toNat ∧
      (Target.power 4096).Mapped ∧ (Target.power 4096).addr = (0x14000 : Word).toNat ∧
      { ready with bus := [.write 0x14000 1] }.bus = .write 0x14000 1 :: [] :=
  ⟨trivial, rfl, by simp [Target.Mapped, Config.fftMax], by decide, rfl⟩

/-- The first and last word of each kind a clause speaks of. -/
theorem witness_ReadsAnswerTheWord :
    (Target.iface .id).addr = (0x000 : Word).toNat ∧
      (Target.iface .status).addr = (0x004 : Word).toNat ∧
      (Target.iface .anPmax).addr = (0x02C : Word).toNat ∧
      (Target.ctl .globalEn).addr = (0x100 : Word).toNat ∧
      (Target.ctl .anPhold).addr = (0x190 : Word).toNat ∧
      (Target.ctl (.bandGainDb 3)).addr = (0x18C : Word).toNat ∧
      ready.ctl.bands[3]? = some ⟨false, 0x457A0000, 0x3F800000, 0⟩ ∧
      (Target.power 4096).Mapped ∧ (Target.power 4096).addr = (0x14000 : Word).toNat ∧
      ready.an.power[4096]? = some 0 ∧
      (Target.peak 4096).Mapped ∧ (Target.peak 4096).addr = (0x1C000 : Word).toNat ∧
      ready.an.peak[4096]? = some 0 ∧
      (Target.audio 1 8191).Mapped ∧ (Target.audio 1 8191).addr = (0x2FFFC : Word).toNat ∧
      { ready with bus := [.read 0x14000] }.bus = .read 0x14000 :: [] := by
  refine ⟨rfl, rfl, rfl, rfl, rfl, rfl, by decide, by simp [Target.Mapped, Config.fftMax], by decide,
    ?_, by simp [Target.Mapped, Config.fftMax], by decide, ?_,
    by simp [Target.Mapped, Config.nChanMax, Config.bufMax], by decide, rfl⟩ <;>
  exact List.getElem?_replicate_of_lt (by decide)

theorem witness_WritesStoreTheWord : ready.Inv ∧
    (Target.iface .arg0).addr = (0x00C : Word).toNat ∧
    (Target.ctl (.bandEn 3)).Mapped ∧ (Target.ctl (.bandEn 3)).addr = (0x180 : Word).toNat ∧
    (Target.audio 1 8191).Mapped ∧ (Target.audio 1 8191).addr = (0x2FFFC : Word).toNat ∧
    { ready with bus := [.write 0x2FFFC 9] }.bus = .write 0x2FFFC 9 :: [] :=
  ⟨ready_inv, rfl, by simp [Target.Mapped, Config.nBands], rfl,
    by simp [Target.Mapped, Config.nChanMax, Config.bufMax], by decide, rfl⟩

theorem witness_StatusWriteClearsTheError : (0x00000001 : Word).getLsbD 0 = true ∧
    (0xFFFFFFFE : Word).getLsbD 0 = false ∧
    { ready with bus := [.write statusAddr 1] }.Consistent ∧ ready.err = false ∧
    exec .nop (ready.raise .busFault) = .next (ready.raise .busFault) ∧
    (ready.raise .busFault).err = true :=
  ⟨by decide, by decide, { ready_consistent with }, rfl, rfl, rfl⟩

theorem witness_ErrIsSticky : step (ready.raise .busFault) = .next (ready.raise .busFault) ∧
    (ready.raise .busFault).err = true ∧
    ∀ v rest, (ready.raise .busFault).bus = .write statusAddr v :: rest → v.getLsbD 0 = false :=
  ⟨rfl, rfl, fun _ _ h => by cases h⟩

theorem witness_ErrorsAreReportedInOrder :
    State.reset.initDone = false ∧ runsBeforeInit (.process 0) = false ∧ ready.initDone = true ∧
      ¬ InRange ready (.process 8193) ∧ ¬ InRange ready (.anWrite 2 0) ∧ ¬ InRange ready (.init 0) ∧
      ¬ InRange ready (.respBand 4 0) := by
  unfold InRange
  decide

theorem witness_SuccessKeepsErrAndCause : ready.initDone = true ∧ InRange ready (.process 8192) ∧
    InRange ready (.anWrite 1 8192) ∧ InRange ready (.respBand 3 1) ∧ InRange ready (.respHs 1) ∧
    runsBeforeInit (.init 2) = true ∧ InRange { ready with arg0 := 0x473B8000 } (.init 2) := by
  unfold InRange
  decide

theorem witness_NoCommandWritesTheHostsRegisters :
    exec .nop ready = .next ready ∧ step ready = .next ready := ⟨rfl, rfl⟩

theorem witness_EachCommandWritesOnlyItsOwnState : exec .nop ready = .next ready ∧
    isResp .nop = false ∧ isInit .nop = false ∧ isProcess .nop = false ∧ isAnalyser .nop = false :=
  ⟨rfl, rfl, rfl, rfl, rfl⟩

theorem witness_FlagsChangeOnlyAsListed :
    field (exec (.process 0) { ready with chg := true }) State.chg = some false ∧
      field (exec (.anWrite 0 8) ready16) (fun t => t.an.valid) = some true ∧
      ready16.an.valid = false ∧
      field (exec (.anSkip 0) { ready with an := { ready.an with valid := true } })
        (fun t => t.an.valid) = some false ∧
      field (exec (.init 1) { State.reset with arg0 := 0x473B8000 }) State.initDone = some true := by
  decide

theorem witness_NopDoesNothing : Word.opc 0x00800000 = 0 ∧ (0x00800000 : Word) ≠ 0x00000000 := by
  decide

theorem witness_InitSetsTheMachine :
    rateOk { State.reset with arg0 := 0x473B8000 }.arg0F = true ∧ 1 ≤ 2 ∧ 2 ≤ 2 := by decide

/-- The exact value of a number of the format. -/
theorem num_toRat {f : Fmt} (s : Bool) (m : Fin (f.infMag + 1)) (h : m.val ≠ f.infMag) :
    (Flt.num s m : Flt f).toRat =
      (if s then -1 else 1) * (Flt.sig f m.val : Rat) * (2 : Rat) ^ (Flt.expo f m.val) := by
  simp [Flt.toRat, h]

/-- The pattern of 8000.0, the least rate. -/
theorem rateMin_toRat : (fl 0x45FA0000).toRat = 8000 := by
  have h : fl 0x45FA0000 = .num false ⟨0x45FA0000, by decide⟩ := by decide
  rw [h, num_toRat _ _ (by decide), show Flt.sig _ _ = 0xFA0000 by decide,
    show Flt.expo _ _ = -11 by decide]
  norm_num

/-- The pattern of 384000.0, the greatest rate. -/
theorem rateMax_toRat : (fl 0x48BB8000).toRat = 384000 := by
  have h : fl 0x48BB8000 = .num false ⟨0x48BB8000, by decide⟩ := by decide
  rw [h, num_toRat _ _ (by decide), show Flt.sig _ _ = 0xBB8000 by decide,
    show Flt.expo _ _ = -5 by decide]
  norm_num

theorem witness_InitAcceptsExactlyTheValidRates :
    (fl 0x45FA0000).isFinite = true ∧ 8000 ≤ (fl 0x45FA0000).toRat ∧
      (fl 0x45FA0000).toRat ≤ 384000 ∧ (fl 0x48BB8000).isFinite = true ∧
      8000 ≤ (fl 0x48BB8000).toRat ∧ (fl 0x48BB8000).toRat ≤ 384000 ∧
      ¬ ((fl 0x7FC00000).isFinite = true) := by
  rw [rateMin_toRat, rateMax_toRat]
  refine ⟨by decide, ?_, ?_, by decide, ?_, ?_, by decide⟩ <;> norm_num

theorem witness_ProcessFrame : ready.initDone = true ∧ 8192 ≤ 8192 ∧ 1 < ready.nchan.val := by decide

theorem witness_ProcessRunsEachChannelsSubblocks :
    ready.Inv ∧ ready.initDone = true ∧ 100 ≤ 8192 ∧ 1 < ready.nchan.val :=
  ⟨ready_inv, rfl, by decide, by decide⟩

/-- Two machines that differ in the other channel's record and in a flag. -/
theorem witness_ChannelsDoNotInterfere :
    ready.Inv ∧ { ready with chg := true, ch := [Chan.reset, { Chan.reset with xf := 5 }] }.Inv ∧
      { ready with chg := true, ch := [Chan.reset, { Chan.reset with xf := 5 }] }.chan 0 =
        ready.chan 0 ∧ 0 < ready.nchan.val := by
  refine ⟨ready_inv, { ready_inv with ch_length := by decide, ch_ok := ?_ }, by decide, by decide⟩
  intro x hx
  simp only [List.mem_cons, List.not_mem_nil, or_false] at hx
  rcases hx with rfl | rfl <;> exact ⟨by decide, by decide⟩

theorem witness_FullyOffOnlyClearsChg : ready.initDone = true ∧ ready.ctl.globalEn = false ∧
    ∀ c, c < ready.nchan.val → (ready.chan c).xf = 0 := by
  refine ⟨rfl, rfl, fun c hc => ?_⟩
  have h : c < 2 := hc
  interval_cases c <;> decide

theorem witness_CrossfadeCounterMoves : ready.Inv ∧ ready.ctl.globalEn = false ∧
    { ready with ctl := { ready.ctl with globalEn := true } }.Inv ∧ 1 < ready.nchan.val :=
  ⟨ready_inv, rfl, { ready_inv with }, by decide⟩

theorem witness_SubblocksTileTheBlock :
    (subblocks 100)[1]? = some (32, 32) ∧ 1 + 1 < (subblocks 100).length ∧
      (subblocks 100)[2]? = some (64, 36) ∧ 2 + 1 = (subblocks 100).length := by decide

theorem witness_BlendWeightArrivesExactly : 1 ≤ 48 ∧ 48 ≤ 48 ∧ 15 < 16 ∧ 1 ≤ 1 ∧ 0 < 16 := by decide

theorem witness_GainStepIsLimited : (Const.one : F32).isFinite = true ∧
    (Const.one : F32).gt Const.zero = true ∧
    (Const.gainStepLo.mul Const.one).le
      (gainLin ((F32.ofWord 0).clamp Const.gainDbMin Const.gainDbMax)) = true ∧
    (gainLin ((F32.ofWord 0).clamp Const.gainDbMin Const.gainDbMax)).le
      (Const.gainStepHi.mul Const.one) = true := by decide

theorem witness_AnWriteAppendsTheSamples : ready16.Inv ∧ ready16.initDone = true ∧
    1 < ready16.nchan.val ∧ 8192 ≤ 8192 ∧ ready16.an.pend + 7 < ready16.an.len / 2 :=
  ⟨ready16_inv, rfl, by decide, by decide, by decide⟩

/-- `ready16` with three samples pending at the end of the buffer. -/
def pending16 : State := { ready16 with an := { ready16.an with wr := 1, pend := 3 } }

/-- No sample and three samples pending; and an `an.write` of no sample before one of 8192. -/
theorem witness_AnWriteRunsThePass : ready16.Inv ∧ ready16.initDone = true ∧
    1 < ready16.nchan.val ∧ ready16.an.pend + 8 = ready16.an.len / 2 ∧ pending16.Inv ∧
    pending16.an.pend + 5 = pending16.an.len / 2 ∧ 0 + 8192 ≤ 8192 ∧
    exec (.anWrite 1 0) ready16 = .next ready16 ∧
    ∀ j, j < 8192 → ready16.audioWord Config.params 1 j = ready16.audioWord Config.params 1 (0 + j) :=
  ⟨ready16_inv, rfl, by decide, by decide,
    { ready16_inv with an_ok := { ready16_inv.an_ok with wr_lt := by decide, pend_lt := by decide } },
    by decide, by decide, rfl, fun j _ => by rw [Nat.zero_add]⟩

theorem witness_SilenceGivesTheEpsilonFloor : ready16.Inv ∧ ready16.initDone = true ∧
    0 < ready16.nchan.val ∧ ready16.an.pend = 0 ∧ ready16.an.asm.isFinite = true ∧
    (∀ x ∈ ready16.an.warpst, x = f32Zero) ∧ (∀ p ∈ ready16.an.power, p = 0) ∧
    ready16.an.pmax = 0 ∧
    ∀ j, j < ready16.an.len / 2 →
      (F32.ofWord (ready16.audioWord Config.params 0 j)).isZero = true := by
  refine ⟨ready16_inv, rfl, by decide, rfl, by decide, fun x hx => List.eq_of_mem_replicate hx,
    fun p hp => List.eq_of_mem_replicate hp, rfl, fun j hj => ?_⟩
  have h : j < 8 := hj
  interval_cases j <;> decide

theorem witness_AnSkipAdvancesTheWritePosition : Word.opc 0x21100000 = 0x21 ∧
    Word.sel 0x21100000 ≠ 0 ∧ State.reset.initDone = false ∧ ready.initDone = true := by decide

theorem witness_AnClrpeakClearsThePeakTrace : Word.opc 0x25000001 = 0x25 ∧
    (0x25000001 : Word) ≠ 0x25000000 ∧ State.reset.initDone = false ∧ ready.initDone = true := by
  decide

theorem witness_SpectrumSymmetries :
    (∀ x ∈ [f32Zero, Flt.zero true], x.isZero = true) ∧ 8 ≤ 8 ∧
      (List.replicate 9 (Cplx.zero : C32)).length = 8 + 1 ∧ 1 ≤ 4 ∧ 4 ≤ 4 := by decide

/-- The vector 1.0, 0.0 has bins to which the error bound applies. -/
theorem witness_SpectrumSymmetries_bound :
    (∀ x ∈ [f32One, f32Zero], x.isFinite = true) ∧ 1 ≤ [f32One, f32Zero].length / 2 ∧
      |dftRe [f32One, f32Zero] 1| + Fft.coarse.bound [f32One, f32Zero] < overflowBound Fmt.b32 := by
  refine ⟨by decide, by decide, ?_⟩
  have h1 : f32One.toRat = 1 := by
    rw [f32One, num_toRat _ _ (by decide), show Flt.sig _ _ = 0x800000 by decide,
      show Flt.expo _ _ = -23 by decide]
    norm_num
  have h0 : f32Zero.toRat = 0 := by
    rw [f32Zero, num_toRat _ _ (by decide), show Flt.sig _ _ = 0 by decide]
    norm_num
  have hx := abs_weighted_sum_le [f32One, f32Zero]
    (fun n => Real.cos (2 * Real.pi * (1 : Nat) * n / [f32One, f32Zero].length))
    fun n => Real.abs_cos_le_one _
  have hs : (([f32One, f32Zero].map fun x => |x.toRat|).sum : Rat) = 1 := by simp [h1, h0]
  have hb : (2 : ℝ) < overflowBound Fmt.b32 := by
    simp only [overflowBound, Fmt.qmin]
    norm_num
  rw [hs] at hx
  simp only [Fft.bound, hs]
  calc |dftRe [f32One, f32Zero] 1| + ((1 : Rat) : ℝ) ≤ ((1 : Rat) : ℝ) + ((1 : Rat) : ℝ) :=
        add_le_add_left hx _
    _ = 2 := by norm_num
    _ < _ := hb

theorem witness_RespCommandsAnswerTheResponse : ready.initDone = true ∧ 1 < ready.nchan.val ∧
    3 < 4 := by decide

/-- Half of 48000 Hz is the boundary of the second clause. -/
theorem witness_RespFrequencyIsClamped : rateOk (fl 0x473B8000) = true ∧
    (fl 0x7FC00000).isNan = true ∧ (fl 0xC0000000).lt Const.zero = true ∧
    (fl 0x00000000).le Const.zero = true ∧ (fl 0x80000000).le Const.zero = true ∧
    (fl 0x46BB8000).isFinite = true ∧ (fl 0x473B8000).toRat ≤ 2 * (fl 0x46BB8000).toRat := by
  have h : fl 0x473B8000 = .num false ⟨0x473B8000, by decide⟩ := by decide
  have g : fl 0x46BB8000 = .num false ⟨0x46BB8000, by decide⟩ := by decide
  refine ⟨by decide, by decide, by decide, by decide, by decide, by decide, ?_⟩
  rw [h, g, num_toRat _ _ (by decide), num_toRat _ _ (by decide),
    show Flt.sig Fmt.b32 0x473B8000 = 0xBB8000 by decide,
    show Flt.expo Fmt.b32 0x473B8000 = -8 by decide,
    show Flt.sig Fmt.b32 0x46BB8000 = 0xBB8000 by decide,
    show Flt.expo Fmt.b32 0x46BB8000 = -9 by decide]
  norm_num

/-- Parameters with NUM.pow = 1, cos = -1 and sin = 1, and a shelf with Q = 1. -/
def flatParams : Params :=
  { Config.params with
    num := { Config.params.num with
      pow := fun _ _ => Const.one, cos := fun _ => Const.one.neg, sin := fun _ => Const.one } }

theorem witness_ShelfAtZeroDbIsTheIdentity :
    let S : Shelf := { Shelf.reset with qv := Const.one }
    S.gdb.isZero = true ∧ (∀ s, flatParams.num.pow Const.ten (Flt.zero s) = Const.one) ∧
      (flatParams.num.cos S.angle).abs.le Const.one = true ∧
      Const.zero.le (S.alpha flatParams) = true ∧ (S.alpha flatParams).le Const.two = true :=
  ⟨by decide, fun _ => rfl, by decide, by decide, by decide⟩

/-- The angle pi / 3, Q = 1 and a gain of 6 dB. -/
theorem witness_ShelfAtZeroDbIsTheIdentity_exact :
    (0 : ℝ) < 1 ∧ 0 < Real.pi / 3 ∧ Real.pi / 3 < Real.pi ∧ (0 : ℝ) < 10 ^ ((6 : ℝ) / 40) :=
  ⟨one_pos, by positivity, by linarith [Real.pi_pos], by positivity⟩

/-- Identity coefficients, with registers of either sign of zero, on finite samples with and without -0.0,
then a NaN and an infinity. -/
theorem witness_UnitShelfPassesSamples :
    let S : Shelf := { Shelf.reset with
      b0 := Const.one, b1 := Const.two.neg, a1 := Const.two.neg, b2 := Const.one, a2 := Const.one }
    S.b0 = Const.one ∧ S.b1.eq S.a1 = true ∧ S.b2 = S.a2 ∧ S.b1.abs.le Const.two = true ∧
      S.b2.abs.le Const.two = true ∧ S.z1 = f64Zero ∧ S.z2 = f64Zero ∧ S.z1.isZero = true ∧
      (Flt.zero true : F64).isZero = true ∧ (fl 0x80000000).isFinite = true ∧
      (∀ x ∈ [fl 0x3F800000, fl 0xFF7FFFFF, fl 0x00000000],
        x.isFinite = true ∧ x ≠ Flt.zero true) ∧
      (fl 0x7FC00000).isFinite = false ∧ (fl 0x7F800000).isFinite = false := by decide

/-- A band at unity gain on 1.0, -0.0 and the greatest finite value, and the two sides of a section. -/
theorem witness_BandAtUnityGainPassesSamples : ({ Band.reset with gl := Const.one }).gl = Const.one ∧
    f32Zero.isZero = true ∧
    (allpassDiff (fl 0x3F000000) (fl 0x3F000000) (fl 0x80000000)).isFinite = true ∧
    (allpassDiff (fl 0x3F000000) (Flt.inf false) (fl 0x3F800000)).isFinite = false ∧
    let B := { Band.reset with s1 := fl 0xBF000000, s2 := fl 0x3F000000 }
    B.a.isZero = true ∧ B.DiffsFinite [fl 0x3F800000, fl 0x80000000, fl 0x7F7FFFFF] := by
  simp only [Band.DiffsFinite]
  decide

theorem witness_DisabledHplpPassesSamples :
    (default : HplpControls).en = false ∧ Hplp.initial.p = f32One ∧ Hplp.initial.q = f32Zero ∧
      Hplp.initial.g = f32Zero := by decide

/-- The greatest subnormal, an infinity and the two sides of the guard. -/
theorem witness_GuardAndFlushCleanRegisters :
    IsFormat Fmt.b32 ∧ (Flt.inf true : F32).isFinite = false ∧ 0x7FFFFF < 2 ^ Fmt.b32.mb ∧
      (Hplp.initial.z1.isFinite = true ∧ Hplp.initial.z2.isFinite = true) ∧
      ¬ ({ Hplp.initial with z2 := Flt.nan }.z1.isFinite = true ∧
        { Hplp.initial with z2 := Flt.nan }.z2.isFinite = true) ∧
      f32Zero.isFinite = true ∧ |f32Zero.toRat| < (Const.denormalFloor : F32).toRat ∧
      (Const.denormalFloor : F32).toRat ≤ |(Const.denormalFloor : F32).toRat| := by
  refine ⟨.inl rfl, by decide, by decide, by decide, by decide, by decide, ?_, le_abs_self _⟩
  have h : (Const.denormalFloor : F32) = .num false ⟨0x2B8CBCCC, by decide⟩ := by decide
  rw [h, num_toRat _ _ (by decide), show f32Zero = .num false ⟨0, by decide⟩ from rfl,
    num_toRat _ _ (by decide), show Flt.sig Fmt.b32 0x2B8CBCCC = 0x8CBCCC by decide,
    show Flt.sig Fmt.b32 0 = 0 by decide]
  simp only [Nat.cast_zero, mul_zero, zero_mul, abs_zero]
  exact mul_pos (by norm_num) (zpow_pos (by norm_num) _)

theorem witness_SmoothMovesTowardsTheTarget :
    (fl 0).isFinite = true ∧ (fl 0x3F800000).isFinite = true ∧
      ((fl 0x3F800000).sub (fl 0)).isFinite = true ∧ ((fl 0).sub (fl 0x3F800000)).isFinite = true ∧
      (fl 0).lt (fl 0x3F800000) = true ∧ (fl 0x80000000).eq (fl 0) = true := by decide

theorem witness_arithmetic : IsFormat Fmt.b32 ∧ IsFormat Fmt.b64 ∧ (fl 0x00000001).isFinite = true ∧
    (fl 0x7F7FFFFF).isFinite = true ∧ (fl 0x7F7FFFFF).isZero = false ∧ (0 : Rat) ≤ (fl 0).toRat ∧
    (fl 0x7FC00000).isNan = true ∧ (fl 0x80000001).sign = true ∧ (fl 0x80000001).isZero = false ∧
    (f64Zero).isFinite = true ∧ (fl 0x80000000).isZero = true ∧
    (fl 0).toRat + (fl 0).toRat = 0 ∧ (fl 0).toRat - (fl 0).toRat = 0 := by
  have h : (fl 0).toRat = 0 := by
    rw [show fl 0 = .num false ⟨0, by decide⟩ by decide, num_toRat _ _ (by decide)]
    simp [Flt.sig]
  refine ⟨.inl rfl, .inr rfl, by decide, by decide, by decide, h.ge, by decide, by decide, by decide,
    by decide, by decide, by rw [h]; norm_num, sub_self _⟩

theorem witness_ComparisonsAndClampFollowTheValues :
    (fl 0xBF800000).le (fl 0x3F800000) = true ∧ (fl 0x7FC00000).isNan = true ∧
      (fl 0xC0000000).lt (fl 0xBF800000) = true ∧ (fl 0x40000000).gt (fl 0x3F800000) = true ∧
      (fl 0xBF800000).le (fl 0x3F800000) = true := by decide

/-- Parameters whose exp is 1 on every operand, for which the poles' range is [0, 1]. -/
def decayParams : Params :=
  { flatParams with num := { flatParams.num with exp := fun _ => Const.one } }

/-- A machine after `init` whose poles lie in the range. -/
theorem witness_EveryStepKeepsSectionsInRange :
    ExpDecays decayParams.num ∧ ready.PolesInRange decayParams ∧ ready.initDone = true ∧
      State.reset.PolesInRange Config.params ∧ step State.reset = .next State.reset := by
  have h0 : (Const.zero : F64).le Const.one = true := by decide
  have h1 : (Const.one : F64).le Const.one = true := by decide
  refine ⟨⟨fun _ _ => ⟨h0, h1⟩, fun _ _ _ _ => h1⟩, fun _ x hx => ?_, rfl, (fun h => by cases h), rfl⟩
  rw [List.eq_of_mem_replicate (hx : x ∈ List.replicate 2 Chan.reset)]
  exact ⟨⟨by decide, by decide⟩, ⟨by decide, by decide⟩⟩

theorem witness_everyStep : ready.Inv ∧ ready.Consistent ∧ ready.GainsPositive ∧
    ready.SectionsInRange ∧ step ready = .next ready :=
  ⟨ready_inv, ready_consistent, witness_gainsPositive_sections.1, witness_gainsPositive_sections.2,
    rfl⟩

end Sys2Proof.Tests
end

section
/-! Exact values. The value of a finite float is an integer number of least subnormals `2 ^ qmin`; that
number is strictly increasing in the key, so comparisons are those of the values (00_scope.md R14). -/

namespace Sys2Proof.Machine

theorem IsFormat.mb_pos {f : Fmt} (h : IsFormat f) : 0 < f.mb := by
  rcases h with rfl | rfl <;> decide

theorem IsFormat.two_le_eb {f : Fmt} (h : IsFormat f) : 2 ≤ f.eb := by
  rcases h with rfl | rfl <;> decide

theorem IsFormat.infMag_ne_zero {f : Fmt} (h : IsFormat f) : f.infMag ≠ 0 := by
  rcases h with rfl | rfl <;> decide

end Sys2Proof.Machine

namespace Sys2Proof.Flt

open Machine

variable {f : Fmt}

/-- The magnitude of the field `m` as a number of least subnormals `2 ^ qmin`. -/
def units (f : Fmt) (m : Nat) : Nat := sig f m * 2 ^ (m / 2 ^ f.mb - 1)

/-- A magnitude field is its significand and its exponent step side by side. -/
theorem sig_add_step (f : Fmt) (m : Nat) : sig f m + (m / 2 ^ f.mb - 1) * 2 ^ f.mb = m := by
  have h := Nat.mod_add_div' m (2 ^ f.mb)
  unfold sig
  split
  case isTrue h0 => simp [h0]
  case isFalse h0 =>
    obtain ⟨k, hk⟩ := Nat.exists_eq_succ_of_ne_zero h0
    rw [hk, Nat.succ_mul] at h
    rw [hk, Nat.succ_sub_one]
    omega

theorem sig_lt (f : Fmt) (m : Nat) : sig f m < 2 ^ (f.mb + 1) := by
  have h := Nat.mod_lt m (Nat.two_pow_pos f.mb)
  have hs := sig_add_step f m
  rw [pow_succ]
  unfold sig at *
  split at hs
  case isTrue h0 =>
    have := (Nat.div_eq_zero_iff_lt (Nat.two_pow_pos f.mb)).1 h0
    rw [if_pos h0]; omega
  case isFalse h0 => rw [if_neg h0]; omega

/-- Above the least exponent the significand is normalised. -/
theorem le_sig_of_step_ne_zero {m : Nat} (h : m / 2 ^ f.mb - 1 ≠ 0) : 2 ^ f.mb ≤ sig f m := by
  unfold sig
  rw [if_neg (by omega)]
  exact Nat.le_add_left _ _

/-- The magnitude of a field given as a significand, normalised or at the least exponent, and a step. The
significand may be the carry `2 ^ (mb + 1)` of a rounding. -/
theorem units_add_step {n k : Nat} (hn : n ≤ 2 ^ (f.mb + 1)) (hk : k = 0 ∨ 2 ^ f.mb ≤ n) :
    units f (n + k * 2 ^ f.mb) = n * 2 ^ k := by
  have hp := Nat.two_pow_pos f.mb
  rw [pow_succ] at hn
  unfold units sig
  rw [Nat.add_mul_div_right _ _ hp, Nat.add_mul_mod_self_right]
  rcases lt_or_ge n (2 ^ f.mb) with hlt | hge
  · obtain rfl : k = 0 := by omega
    simp [Nat.div_eq_of_lt hlt]
  · rcases hn.lt_or_eq with hlt | rfl
    · have hd : n / 2 ^ f.mb = 1 := Nat.div_eq_of_lt_le (by omega) (by omega)
      have hr : n % 2 ^ f.mb + 2 ^ f.mb = n := by
        have := Nat.mod_add_div' n (2 ^ f.mb)
        rw [hd] at this; omega
      rw [hd, if_neg (by omega), hr, Nat.add_sub_cancel_left]
    · rw [Nat.mul_div_cancel_left _ hp, Nat.mul_mod_right, if_neg (by omega),
        show 2 + k - 1 = k + 1 by omega]
      ring

theorem units_zero (f : Fmt) : units f 0 = 0 := by simp [units, sig]

theorem units_strictMono (f : Fmt) : StrictMono (units f) := by
  refine strictMono_nat_of_lt_succ fun m => ?_
  have hm := sig_add_step f m
  have hlt := sig_lt f m
  set k := m / 2 ^ f.mb - 1
  have hk : k = 0 ∨ 2 ^ f.mb ≤ sig f m := or_iff_not_imp_left.2 le_sig_of_step_ne_zero
  have h1 : units f m = sig f m * 2 ^ k := rfl
  have h2 : units f (m + 1) = (sig f m + 1) * 2 ^ k := by
    rw [← units_add_step hlt (hk.imp_right Nat.le_succ_of_le)]
    congr 1; omega
  rw [h1, h2]
  exact Nat.mul_lt_mul_of_pos_right (Nat.lt_succ_self _) (Nat.two_pow_pos k)

/-- A magnitude is a multiple of the unit `2 ^ k`, or lies below the values whose unit that is. -/
theorem two_pow_dvd_units_or_lt (f : Fmt) (k m : Nat) :
    2 ^ k ∣ units f m ∨ units f m < 2 ^ (f.mb + k) := by
  rcases le_or_gt k (m / 2 ^ f.mb - 1) with h | h
  · exact .inl ((pow_dvd_pow 2 h).mul_left _)
  · right
    calc units f m < 2 ^ (f.mb + 1) * 2 ^ (m / 2 ^ f.mb - 1) :=
          Nat.mul_lt_mul_of_pos_right (sig_lt f m) (Nat.two_pow_pos _)
      _ = 2 ^ (f.mb + (m / 2 ^ f.mb - 1 + 1)) := by ring
      _ ≤ 2 ^ (f.mb + k) := Nat.pow_le_pow_right two_pos (by omega)

/-- Magnitudes with their sign: the odd extension of `units` to keys. -/
def intUnits (f : Fmt) : Int → Int
  | .ofNat m => units f m
  | .negSucc m => -units f (m + 1)

@[simp] theorem intUnits_natCast (m : Nat) : intUnits f (m : Int) = units f m := rfl

@[simp] theorem intUnits_neg_natCast (m : Nat) : intUnits f (-(m : Int)) = -units f m := by
  cases m with
  | zero => simp [intUnits, units_zero]
  | succ m => rfl

theorem intUnits_strictMono (f : Fmt) : StrictMono (intUnits f) := by
  refine strictMono_int_of_lt_succ fun i => ?_
  cases i with
  | ofNat m => exact Int.ofNat_lt.2 (units_strictMono f (Nat.lt_succ_self m))
  | negSucc m =>
    have h : Int.negSucc m + 1 = -(m : Int) := by omega
    rw [h, intUnits_neg_natCast]
    exact neg_lt_neg (Int.ofNat_lt.2 (units_strictMono f (Nat.lt_succ_self m)))

theorem natAbs_intUnits (f : Fmt) (i : Int) : (intUnits f i).natAbs = units f i.natAbs := by
  cases i with
  | ofNat m => rfl
  | negSucc m => simp [intUnits]

theorem sig_mul_zpow_expo (f : Fmt) (m : Nat) :
    (sig f m : Rat) * 2 ^ expo f m = units f m * 2 ^ f.qmin := by
  unfold units expo
  generalize m / 2 ^ f.mb = t
  split
  case isTrue h => simp [h]
  case isFalse h =>
    rw [show f.qmin + (t : Int) - 1 = (t - 1 : Nat) + f.qmin by omega, zpow_add₀ two_ne_zero,
      zpow_natCast]
    push_cast
    ring

theorem qmin_le_expo (f : Fmt) (m : Nat) : f.qmin ≤ expo f m := by
  unfold expo
  generalize m / 2 ^ f.mb = t
  split <;> omega

/-- A finite float is a sign and a magnitude field below that of infinity. -/
theorem eq_num_of_isFinite {a : Flt f} (h : a.isFinite = true) :
    ∃ s m, m.val ≠ f.infMag ∧ a = num s m := by
  cases a with
  | nan => simp [isFinite] at h
  | num s m => exact ⟨s, m, by simpa [isFinite] using h, rfl⟩

theorem eq_num_of_isNan {a : Flt f} (h : a.isNan = false) : ∃ s m, a = num s m := by
  cases a with
  | nan => simp [isNan] at h
  | num s m => exact ⟨s, m, rfl⟩

/-- The value of a number, in the terms the operations compute with. -/
theorem toRat_num_eq {s : Bool} {m : Fin (f.infMag + 1)} (h : m.val ≠ f.infMag) :
    (num s m : Flt f).toRat = (if s then -1 else 1) * ((sig f m : Rat) * 2 ^ expo f m) := by
  rw [toRat, if_neg h, mul_assoc]

/-- The value of a finite float, in least subnormals. -/
theorem toRat_eq_intUnits {a : Flt f} (h : a.isFinite = true) :
    a.toRat = intUnits f a.key * 2 ^ f.qmin := by
  obtain ⟨s, m, hm, rfl⟩ := eq_num_of_isFinite h
  rw [toRat_num_eq hm, sig_mul_zpow_expo]
  cases s <;> simp [key]

theorem qmin_unit_pos (f : Fmt) : (0 : Rat) < 2 ^ f.qmin := zpow_pos two_pos _

theorem toRat_lt_iff {a b : Flt f} (ha : a.isFinite = true) (hb : b.isFinite = true) :
    a.toRat < b.toRat ↔ a.key < b.key := by
  rw [toRat_eq_intUnits ha, toRat_eq_intUnits hb, mul_lt_mul_iff_left₀ (qmin_unit_pos f), Int.cast_lt,
    (intUnits_strictMono f).lt_iff_lt]

theorem toRat_le_iff {a b : Flt f} (ha : a.isFinite = true) (hb : b.isFinite = true) :
    a.toRat ≤ b.toRat ↔ a.key ≤ b.key := by
  rw [← not_lt, toRat_lt_iff hb ha, not_lt]

theorem toRat_eq_iff {a b : Flt f} (ha : a.isFinite = true) (hb : b.isFinite = true) :
    a.toRat = b.toRat ↔ a.key = b.key := by
  rw [le_antisymm_iff, toRat_le_iff ha hb, toRat_le_iff hb ha, ← le_antisymm_iff]

theorem isNan_of_isFinite {a : Flt f} (h : a.isFinite = true) : a.isNan = false := by
  obtain ⟨s, m, hm, rfl⟩ := eq_num_of_isFinite h
  rfl

theorem natAbs_key_lt {a : Flt f} (h : a.isFinite = true) : a.key.natAbs < f.infMag := by
  obtain ⟨s, m, hm, rfl⟩ := eq_num_of_isFinite h
  have hlt := m.isLt
  cases s <;> rw [key] <;> omega

/-- Two numbers with the same key and the same sign are the same. -/
theorem eq_of_key_eq {a b : Flt f} (ha : a.isNan = false) (hb : b.isNan = false) (hk : a.key = b.key)
    (hs : a.sign = b.sign) : a = b := by
  obtain ⟨s, m, rfl⟩ := eq_num_of_isNan ha
  obtain ⟨t, n, rfl⟩ := eq_num_of_isNan hb
  obtain rfl : s = t := hs
  cases s <;> · simp only [key] at hk; congr 1; omega

@[simp] theorem toRat_neg (a : Flt f) : a.neg.toRat = -a.toRat := by
  cases a with
  | nan => simp [neg, toRat]
  | num s m =>
    by_cases h : m.val = f.infMag
    · simp [neg, toRat, h]
    · rw [neg, toRat_num_eq h, toRat_num_eq h]
      cases s <;> simp

@[simp] theorem isFinite_neg (a : Flt f) : a.neg.isFinite = a.isFinite := by cases a <;> rfl

@[simp] theorem isNan_neg (a : Flt f) : a.neg.isNan = a.isNan := by cases a <;> rfl

theorem sign_neg {a : Flt f} (h : a.isNan = false) : a.neg.sign = !a.sign := by
  obtain ⟨s, m, rfl⟩ := eq_num_of_isNan h
  rfl

theorem ofMag_of_lt {s : Bool} {m : Nat} (h : m < f.infMag) :
    (ofMag s m : Flt f) = num s ⟨m, by omega⟩ := by simp [ofMag, h.le]

theorem ofMag_of_le {s : Bool} {m : Nat} (h : f.infMag ≤ m) : (ofMag s m : Flt f) = inf s := by
  simp [inf, ofMag, h]

@[simp] theorem sign_ofMag (s : Bool) (m : Nat) : (ofMag s m : Flt f).sign = s := rfl

@[simp] theorem isInf_inf (s : Bool) : (inf s : Flt f).isInf = true := by simp [inf, ofMag, isInf]

theorem isFinite_ofMag {s : Bool} {m : Nat} (h : m < f.infMag) :
    (ofMag s m : Flt f).isFinite = true := by
  simp [ofMag_of_lt h, isFinite, h.ne]

theorem toRat_ofMag {s : Bool} {m : Nat} (h : m < f.infMag) :
    (ofMag s m : Flt f).toRat = (if s then -1 else 1) * (units f m * 2 ^ f.qmin) := by
  rw [ofMag_of_lt h, toRat_num_eq h.ne, sig_mul_zpow_expo]

theorem clamp_of_isNan_or_lt {v lo hi : Flt f} (h : v.isNan = true ∨ v.lt lo = true) :
    v.clamp lo hi = lo := by
  rcases h with h | h <;> simp [clamp, h]

theorem clamp_of_gt {v lo hi : Flt f} (hb : lo.le hi = true) (h : v.gt hi = true) :
    v.clamp lo hi = hi := by
  have hlo : v.lt lo = false := by
    simp [gt, lt, le] at h hb ⊢
    omega
  have hv : v.isNan = false := by simp_all [gt, lt]
  simp [clamp, hv, hlo, h]

theorem clamp_of_le_le {v lo hi : Flt f} (hl : lo.le v = true) (hh : v.le hi = true) :
    v.clamp lo hi = v := by
  have hlo : v.lt lo = false := by simp_all [lt, le]
  have hhi : v.gt hi = false := by simp_all [gt, lt, le]
  have hv : v.isNan = false := by simp_all [le]
  simp [clamp, hv, hlo, hhi]

end Sys2Proof.Flt
end

section
open Sys2Proof Sys2Proof.Machine

/-- Settles O54: the key orders the numbers as their values are ordered. -/
theorem comparisonsAndClampFollowTheValues : Obligations.ComparisonsAndClampFollowTheValues := by
  unfold Obligations.ComparisonsAndClampFollowTheValues
  intro f _ a b
  refine ⟨fun ha hb => ?_, fun h => ?_, fun v hab =>
    ⟨Flt.clamp_of_isNan_or_lt, Flt.clamp_of_gt hab, Flt.clamp_of_le_le⟩⟩
  · rw [Flt.toRat_lt_iff ha hb, Flt.toRat_le_iff ha hb, Flt.toRat_eq_iff ha hb]
    simp [Flt.lt, Flt.le, Flt.eq, Flt.isNan_of_isFinite ha, Flt.isNan_of_isFinite hb]
  · rcases h with h | h <;> simp [Flt.lt, Flt.le, Flt.gt, Flt.ge, Flt.eq, h]
end

section
/-! Special operands (00_scope.md R12, R13): the equations of the operations at NaNs, infinities and
zeros. -/

namespace Sys2Proof.Flt

open Machine

variable {f : Fmt}

theorem eq_nan_of_isNan {a : Flt f} (h : a.isNan = true) : a = .nan := by
  cases a with
  | nan => rfl
  | num s m => simp [isNan] at h

@[simp] theorem isZero_iff_val (s : Bool) (m : Fin (f.infMag + 1)) :
    (num s m : Flt f).isZero = true ↔ m.val = 0 := by simp [isZero]

theorem inf_eq (s : Bool) : (inf s : Flt f) = num s (Fin.last f.infMag) := by
  simp [inf, ofMag, Fin.ext_iff]

theorem zero_eq (s : Bool) : (zero s : Flt f) = num s 0 := by simp [zero, ofMag]

/-- The significand shifted to a common exponent, read at that exponent, is the value. -/
theorem scaled_mul_zpow {s : Bool} {m : Fin (f.infMag + 1)} {e : Int} (h : m.val ≠ f.infMag)
    (he : e ≤ expo f m.val) : (scaled f s m.val e : Rat) * 2 ^ e = (num s m : Flt f).toRat := by
  rw [toRat_num_eq h]
  unfold scaled
  have hz : (2 : Rat) ^ expo f m.val = 2 ^ (expo f m.val - e).toNat * 2 ^ e := by
    rw [← zpow_natCast, ← zpow_add₀ two_ne_zero]
    congr 1; omega
  rw [hz]
  push_cast
  ring

/-- The exact sum in the terms `add` computes with. -/
theorem add_num_num {s t : Bool} {m n : Fin (f.infMag + 1)} (hm : m.val ≠ f.infMag)
    (hn : n.val ≠ f.infMag) : ∃ (z e : Int),
    (z : Rat) * 2 ^ e = (num s m : Flt f).toRat + (num t n : Flt f).toRat ∧
    (num s m : Flt f).add (num t n) =
      if z = 0 then zero (s && t) else round (decide (z < 0)) z.natAbs e := by
  refine ⟨_, min (expo f m.val) (expo f n.val), ?_, by rw [add, if_neg hm, if_neg hn]⟩
  rw [← scaled_mul_zpow hm (min_le_left _ _), ← scaled_mul_zpow hn (min_le_right _ _)]
  push_cast
  ring

theorem add_of_toRat_add_eq_zero {a b : Flt f} (ha : a.isFinite = true) (hb : b.isFinite = true)
    (h : a.toRat + b.toRat = 0) : a.add b = zero (a.sign && b.sign) := by
  obtain ⟨s, m, hm, rfl⟩ := eq_num_of_isFinite ha
  obtain ⟨t, n, hn, rfl⟩ := eq_num_of_isFinite hb
  obtain ⟨z, e, hz, hadd⟩ := add_num_num (s := s) (t := t) hm hn
  have h0 : z = 0 := by
    rw [h, mul_eq_zero_iff_right (zpow_ne_zero _ two_ne_zero)] at hz
    exact_mod_cast hz
  rw [hadd, if_pos h0]; rfl

theorem mul_of_isZero {a b : Flt f} (ha : a.isFinite = true) (hb : b.isFinite = true)
    (h : a.isZero = true ∨ b.isZero = true) : a.mul b = zero (a.sign ^^ b.sign) := by
  obtain ⟨s, m, hm, rfl⟩ := eq_num_of_isFinite ha
  obtain ⟨t, n, hn, rfl⟩ := eq_num_of_isFinite hb
  have hz : sig f m.val * sig f n.val = 0 := by
    rcases h with h | h <;> simp [(isZero_iff_val _ _).1 h, sig]
  rw [mul, if_neg (not_or.2 ⟨hm, hn⟩), hz]
  simp [round, sign]

theorem div_of_isZero {a b : Flt f} (ha : a.isFinite = true) (hb : b.isFinite = true)
    (h : a.isZero = true) (hb0 : b.isZero = false) : a.div b = zero (a.sign ^^ b.sign) := by
  obtain ⟨s, m, hm, rfl⟩ := eq_num_of_isFinite ha
  obtain ⟨t, n, hn, rfl⟩ := eq_num_of_isFinite hb
  have hn0 : n.val ≠ 0 := by simpa [isZero] using hb0
  have hz : sig f m.val = 0 := by simp [(isZero_iff_val _ _).1 h, sig]
  rw [div, if_neg hm, if_neg hn, if_neg hn0, hz]
  simp [ofQuot, round, sign]

theorem nan_operand {a b : Flt f} (h : a.isNan = true ∨ b.isNan = true) :
    a.add b = .nan ∧ a.sub b = .nan ∧ a.mul b = .nan ∧ a.div b = .nan := by
  rcases h with h | h <;> rw [eq_nan_of_isNan h]
  · exact ⟨rfl, rfl, rfl, rfl⟩
  · cases a <;> exact ⟨rfl, rfl, rfl, rfl⟩

theorem neg_inf (s : Bool) : (inf s : Flt f).neg = inf (!s) := rfl

theorem inf_add_inf (s t : Bool) :
    (inf s : Flt f).add (inf t) = if s = t then inf s else .nan := by
  by_cases h : s = t <;> simp [inf_eq, add, h]

theorem inf_add_of_isFinite (s : Bool) {a : Flt f} (h : a.isFinite = true) :
    (inf s).add a = inf s := by
  obtain ⟨t, n, hn, rfl⟩ := eq_num_of_isFinite h
  simp [inf_eq, add, hn]

theorem add_inf_of_isFinite (s : Bool) {a : Flt f} (h : a.isFinite = true) :
    a.add (inf s) = inf s := by
  obtain ⟨t, n, hn, rfl⟩ := eq_num_of_isFinite h
  simp [inf_eq, add, hn]

theorem inf_div_of_isFinite (s : Bool) {a : Flt f} (h : a.isFinite = true) :
    (inf s).div a = inf (s ^^ a.sign) := by
  obtain ⟨t, n, hn, rfl⟩ := eq_num_of_isFinite h
  simp [inf_eq, div, hn, sign]

theorem inf_mul_of_number (hf : IsFormat f) (s : Bool) {a : Flt f} (h : a.isNan = false) :
    (inf s).mul a = if a.isZero = true then .nan else inf (s ^^ a.sign) := by
  obtain ⟨t, n, rfl⟩ := eq_num_of_isNan h
  simp [inf_eq, mul, isZero, sign, hf.infMag_ne_zero]

theorem mul_inf_of_number (hf : IsFormat f) (s : Bool) {a : Flt f} (h : a.isNan = false) :
    a.mul (inf s) = if a.isZero = true then .nan else inf (a.sign ^^ s) := by
  obtain ⟨t, n, rfl⟩ := eq_num_of_isNan h
  simp [inf_eq, mul, isZero, sign, hf.infMag_ne_zero]

theorem div_zero_of_number (hf : IsFormat f) (s : Bool) {a : Flt f} (h : a.isNan = false) :
    a.div (zero s) = if a.isZero = true then .nan else inf (a.sign ^^ s) := by
  obtain ⟨t, n, rfl⟩ := eq_num_of_isNan h
  rw [zero_eq, div]
  simp only [hf.infMag_ne_zero.symm, if_false, isZero, sign, beq_iff_eq, Fin.val_zero, if_true]
  by_cases hn : n.val = f.infMag
  · have hz : n.val ≠ 0 := by rw [hn]; exact hf.infMag_ne_zero
    rw [if_pos hn, if_neg hz]
  · rw [if_neg hn]

theorem div_inf_of_number (s : Bool) {a : Flt f} (h : a.isNan = false) :
    a.div (inf s) = if a.isInf = true then .nan else zero (a.sign ^^ s) := by
  obtain ⟨t, n, rfl⟩ := eq_num_of_isNan h
  by_cases hn : n.val = f.infMag <;> simp [inf_eq, div, isInf, sign, hn]

theorem sqrt_eq_nan {a : Flt f} (h : a.isNan = true ∨ a.sign = true ∧ a.isZero = false) :
    a.sqrt = .nan := by
  cases a with
  | nan => rfl
  | num s m =>
    obtain ⟨rfl, hm⟩ : s = true ∧ m.val ≠ 0 := by simpa [isNan, sign, isZero] using h
    rw [sqrt, if_neg hm, if_pos rfl]

theorem sqrt_of_isZero {a : Flt f} (h : a.isZero = true) : a.sqrt = a := by
  cases a with
  | nan => simp [isZero] at h
  | num s m => rw [sqrt, if_pos ((isZero_iff_val _ _).1 h)]

theorem sqrt_inf (hf : IsFormat f) : (inf false : Flt f).sqrt = inf false := by
  simp [inf_eq, sqrt, hf.infMag_ne_zero]

end Sys2Proof.Flt
end

section
open Sys2Proof Sys2Proof.Machine

/-- Settles O52, by the equation of each operation at each special operand. -/
theorem specialOperandsFollowIeee : Obligations.SpecialOperandsFollowIeee := by
  unfold Obligations.SpecialOperandsFollowIeee
  intro f hf
  refine ⟨fun a b => Flt.nan_operand, fun s => ?infs, fun s a ha => ?products, fun a b ha hb => ?zeros,
    fun a => Flt.sqrt_eq_nan, fun s => Flt.sqrt_of_isZero rfl, Flt.sqrt_inf hf⟩
  case infs =>
    refine ⟨by simp [Flt.inf_add_inf], by simp [Flt.inf_add_inf],
      by simp [Flt.sub, Flt.neg_inf, Flt.inf_add_inf],
      by simp [Flt.sub, Flt.neg_inf, Flt.inf_add_inf],
      fun a ha => ⟨Flt.inf_add_of_isFinite s ha, Flt.add_inf_of_isFinite s ha,
        Flt.inf_add_of_isFinite s ?_, Flt.add_inf_of_isFinite (!s) ha, Flt.inf_div_of_isFinite s ha⟩⟩
    rwa [Flt.isFinite_neg]
  case products =>
    exact ⟨Flt.inf_mul_of_number hf s ha, Flt.mul_inf_of_number hf s ha,
      Flt.div_zero_of_number hf s ha, Flt.div_inf_of_number s ha⟩
  case zeros =>
    refine ⟨Flt.add_of_toRat_add_eq_zero ha hb, fun h => ?_, Flt.mul_of_isZero ha hb,
      Flt.div_of_isZero ha hb⟩
    rw [← Flt.sign_neg (Flt.isNan_of_isFinite hb)]
    exact Flt.add_of_toRat_add_eq_zero ha (by rwa [Flt.isFinite_neg])
      (by rwa [Flt.toRat_neg, ← sub_eq_add_neg])
end

section
/-! Rounding (00_scope.md R12). `round` brings the exact magnitude to units `2 ^ (qmin + k)`, where it is
below `2 ^ (mb + 1)` and, unless `k = 0`, at least `2 ^ mb`, and takes the nearest integer `n` there, ties to
even. `RoundsTo` says so of a real number of units; that no float is closer follows from it alone. -/

namespace Sys2Proof.Flt

open Machine

variable {f : Fmt}

/-- `n` is the integer nearest to the real `Y`, the even one of two. -/
structure NearestEven (Y : ℝ) (n : Nat) : Prop where
  near : |Y - n| ≤ 1 / 2
  even_of_tie : |Y - n| = 1 / 2 → Even n

/-- `n` units of step `k` are what a magnitude of `Y` such units rounds to. -/
structure RoundsTo (f : Fmt) (Y : ℝ) (k n : Nat) : Prop extends NearestEven Y n where
  nonneg : 0 ≤ Y
  lt : Y < 2 ^ (f.mb + 1)
  normal : k = 0 ∨ 2 ^ f.mb ≤ Y

/-- No other integer is closer to `Y` than its nearest one. -/
theorem NearestEven.dist_lt_or {Y : ℝ} {n : Nat} (h : NearestEven Y n) {j : Int} (hj : j ≠ n) :
    |(n : ℝ) - Y| < |(j : ℝ) - Y| ∨ |(n : ℝ) - Y| = |(j : ℝ) - Y| ∧ |Y - n| = 1 / 2 := by
  have h1 : (1 : ℝ) ≤ |(j : ℝ) - n| := by exact_mod_cast Int.one_le_abs (sub_ne_zero.2 hj)
  have h2 : |(j : ℝ) - n| ≤ |(j : ℝ) - Y| + |Y - n| := abs_sub_le _ _ _
  have hn := h.near
  rw [abs_sub_comm (n : ℝ)]
  rcases hn.lt_or_eq with hlt | heq
  · left; linarith
  · rcases lt_or_ge |Y - n| |(j : ℝ) - Y| with hl | hg
    · exact .inl hl
    · exact .inr ⟨by linarith, heq⟩

theorem NearestEven.le_of_natCast_le {Y : ℝ} {n j : Nat} (h : NearestEven Y n) (hj : (j : ℝ) ≤ Y) :
    j ≤ n := by
  have h1 := (abs_le.1 h.near).2
  have h2 : (j : ℝ) < n + 1 := by linarith
  exact Nat.lt_succ_iff.1 (by exact_mod_cast h2)

theorem NearestEven.le_of_lt_natCast {Y : ℝ} {n j : Nat} (h : NearestEven Y n) (hj : Y < j) :
    n ≤ j := by
  have h1 := (abs_le.1 h.near).1
  have h2 : (n : ℝ) < j + 1 := by linarith
  exact Nat.lt_succ_iff.1 (by exact_mod_cast h2)

theorem NearestEven.eq_of_natCast {n j : Nat} (h : NearestEven j n) : n = j := by
  have h1 := abs_le.1 h.near
  have h2 : (j : ℝ) < n + 1 := by linarith [h1.2]
  have h3 : (n : ℝ) < j + 1 := by linarith [h1.1]
  exact le_antisymm (Nat.lt_succ_iff.1 (by exact_mod_cast h3)) (Nat.lt_succ_iff.1 (by exact_mod_cast h2))

/-- Below a tie with an even number the nearest integer is below it, and from the tie on it is not. -/
theorem NearestEven.lt_iff {Y : ℝ} {n N : Nat} (h : NearestEven Y n) (hN : Even N) :
    Y < N - 1 / 2 ↔ n < N := by
  have hn := abs_le.1 h.near
  constructor
  · intro hY
    have : (n : ℝ) < N := by linarith [hn.1]
    exact_mod_cast this
  · intro hlt
    have h1 : (n : ℝ) + 1 ≤ N := by exact_mod_cast hlt
    refine lt_of_le_of_ne (by linarith [hn.2]) fun hY => ?_
    have h2 : (n : ℝ) + 1 = N := le_antisymm h1 (by linarith [hn.2])
    have ht : Y - n = 1 / 2 := by linarith
    have he : Even n := h.even_of_tie (by rw [ht]; norm_num)
    have h3 : n + 1 = N := by exact_mod_cast h2
    rw [← h3, Nat.even_add_one] at hN
    exact hN he

/-- The step of the greatest finite values: their unit is `2 ^ (qmin + topStep)`. -/
def topStep (f : Fmt) : Nat := 2 ^ f.eb - 3

theorem two_pow_eb (hf : IsFormat f) : 2 ^ f.eb = topStep f + 3 := by
  have := Nat.pow_le_pow_right two_pos hf.two_le_eb
  unfold topStep
  omega

theorem infMag_eq (hf : IsFormat f) : f.infMag = 2 ^ (f.mb + 1) + topStep f * 2 ^ f.mb := by
  rw [Fmt.infMag, two_pow_eb hf, show topStep f + 3 - 1 = topStep f + 2 by omega]
  ring

theorem unit_eq (f : Fmt) (k : Nat) : (2 : ℝ) ^ (f.qmin + k) = 2 ^ k * 2 ^ f.qmin := by
  rw [zpow_add₀ two_ne_zero, zpow_natCast, mul_comm]

theorem overflowBound_eq (hf : IsFormat f) : (overflowBound f : ℝ) =
    (2 ^ (f.mb + 1) - 1 / 2) * 2 ^ topStep f * 2 ^ f.qmin := by
  have h : (2 : Int) ^ f.eb = topStep f + 3 := by exact_mod_cast two_pow_eb hf
  rw [overflowBound, h, show f.qmin + (topStep f + 3 : Int) - 4 = f.qmin + topStep f - 1 by omega]
  push_cast
  rw [zpow_sub_one₀ two_ne_zero, unit_eq]
  ring

/-- Every finite value lies below `2 ^ topExpo`. -/
def topExpo (f : Fmt) : Int := (f.mb + 1 : Nat) + (topStep f : Nat) + f.qmin

theorem overflowBound_eq_topExpo (hf : IsFormat f) :
    (overflowBound f : ℝ) = (1 - 1 / 2 / 2 ^ (f.mb + 1)) * 2 ^ topExpo f := by
  rw [overflowBound_eq hf, topExpo, zpow_add₀ two_ne_zero, zpow_add₀ two_ne_zero, zpow_natCast,
    zpow_natCast]
  field_simp

theorem overflowBound_lt_two_pow (hf : IsFormat f) : (overflowBound f : ℝ) < 2 ^ topExpo f := by
  rw [overflowBound_eq_topExpo hf]
  refine mul_lt_of_lt_one_left (zpow_pos two_pos _) ?_
  have : (0 : ℝ) < 1 / 2 / 2 ^ (f.mb + 1) := by positivity
  linarith

theorem two_pow_topExpo_le_overflowBound (hf : IsFormat f) :
    (2 : ℝ) ^ (topExpo f - 1) ≤ overflowBound f := by
  have h1 : (1 / 2 / 2 ^ (f.mb + 1) : ℝ) ≤ 1 / 2 :=
    div_le_self (by norm_num) (one_le_pow₀ one_le_two)
  rw [overflowBound_eq_topExpo hf, zpow_sub_one₀ two_ne_zero, mul_comm]
  exact mul_le_mul_of_nonneg_right (by linarith) (zpow_pos two_pos _).le

/-- Finite values lie below the overflow threshold. -/
theorem abs_toRat_lt_overflowBound (hf : IsFormat f) {a : Flt f} (h : a.isFinite = true) :
    |(a.toRat : ℝ)| < overflowBound f := by
  have hq : (0 : ℝ) < 2 ^ f.qmin := zpow_pos two_pos _
  have hp : 1 ≤ 2 ^ (f.mb + 1) := Nat.one_le_two_pow
  have hkey : a.key.natAbs ≤ 2 ^ (f.mb + 1) - 1 + topStep f * 2 ^ f.mb := by
    have := natAbs_key_lt h
    rw [infMag_eq hf] at this
    omega
  have hu : units f a.key.natAbs ≤ (2 ^ (f.mb + 1) - 1) * 2 ^ topStep f := by
    rw [← units_add_step (f := f) (Nat.sub_le _ _)
      (.inr (by have := Nat.two_pow_pos f.mb; rw [pow_succ]; omega))]
    exact (units_strictMono f).monotone hkey
  have hu' : (units f a.key.natAbs : ℝ) ≤ (2 ^ (f.mb + 1) - 1) * 2 ^ topStep f := by
    rw [← Nat.cast_le (α := ℝ)] at hu
    push_cast [Nat.cast_sub hp] at hu
    exact hu
  have habs : |(a.toRat : ℝ)| = units f a.key.natAbs * 2 ^ f.qmin := by
    rw [toRat_eq_intUnits h, ← natAbs_intUnits]
    push_cast
    rw [abs_mul, abs_of_pos hq, ← Int.cast_abs, Int.abs_eq_natAbs, Int.cast_natCast]
  rw [habs, overflowBound_eq hf]
  refine mul_lt_mul_of_pos_right (hu'.trans_lt ?_) hq
  exact mul_lt_mul_of_pos_right (by linarith) (pow_pos two_pos _)

/-- In units of step `k` a value is an integer, or it lies below the values of that unit. -/
theorem intUnits_div_int_or_lt (f : Fmt) (k : Nat) (i : Int) :
    (∃ j : Int, (intUnits f i / 2 ^ k : ℝ) = j) ∨ |(intUnits f i / 2 ^ k : ℝ)| < 2 ^ f.mb := by
  have hk : (0 : ℝ) < 2 ^ k := pow_pos two_pos _
  rcases two_pow_dvd_units_or_lt f k i.natAbs with hd | hl <;> rw [← natAbs_intUnits] at *
  · obtain ⟨j, hj⟩ := Int.ofNat_dvd_left.2 hd
    exact .inl ⟨j, by rw [hj]; push_cast; field_simp⟩
  · right
    rw [abs_div, abs_of_pos hk, div_lt_iff₀ hk, ← pow_add, ← Int.cast_abs, Int.abs_eq_natAbs]
    exact_mod_cast hl

namespace RoundsTo

variable {Y : ℝ} {k n : Nat}

theorem le_carry (h : RoundsTo f Y k n) : n ≤ 2 ^ (f.mb + 1) :=
  h.le_of_lt_natCast (by exact_mod_cast h.lt)

theorem normal_nat (h : RoundsTo f Y k n) : k = 0 ∨ 2 ^ f.mb ≤ n :=
  h.normal.imp_right fun hY => h.le_of_natCast_le (by exact_mod_cast hY)

theorem units_eq (h : RoundsTo f Y k n) : units f (n + k * 2 ^ f.mb) = n * 2 ^ k :=
  units_add_step h.le_carry h.normal_nat

/-- No float is closer: one that is no whole number of units lies below all values of this unit, of which
`2 ^ mb` is the least. -/
theorem dist_lt_or (h : RoundsTo f Y k n) {V : ℝ}
    (hV : (∃ j : Int, V = j) ∨ (|V| < 2 ^ f.mb ∧ 2 ^ f.mb ≤ Y)) (hne : V ≠ n) :
    |(n : ℝ) - Y| < |V - Y| ∨ |(n : ℝ) - Y| = |V - Y| ∧ |Y - n| = 1 / 2 := by
  rcases hV with ⟨j, rfl⟩ | ⟨hlt, hY⟩
  · exact h.toNearestEven.dist_lt_or (by exact_mod_cast hne)
  · left
    have hV := (abs_lt.1 hlt).2
    have hp : |(n : ℝ) - Y| ≤ Y - 2 ^ f.mb := by
      rw [← abs_of_nonneg (sub_nonneg.2 hY), abs_sub_comm Y]
      by_cases hn : 2 ^ f.mb = n
      · rw [← hn]; push_cast; rfl
      · have hj : ((2 ^ f.mb : Nat) : Int) ≠ n := by exact_mod_cast hn
        rcases h.toNearestEven.dist_lt_or hj with h' | h' <;> push_cast at h'
        · exact h'.le
        · exact h'.1.le
    calc |(n : ℝ) - Y| ≤ Y - 2 ^ f.mb := hp
      _ < Y - V := by linarith
      _ ≤ |V - Y| := by rw [abs_sub_comm]; exact le_abs_self _

/-- The rounded magnitude overflows exactly from `overflowBound` on. -/
theorem lt_overflowBound_iff (hf : IsFormat f) (h : RoundsTo f Y k n) :
    Y * 2 ^ (f.qmin + k) < overflowBound f ↔ n + k * 2 ^ f.mb < f.infMag := by
  rw [overflowBound_eq hf, infMag_eq hf, unit_eq, ← mul_assoc,
    mul_lt_mul_iff_left₀ (zpow_pos two_pos _)]
  have hlt := h.lt
  have hle := h.le_carry
  have h1 : (1 : ℝ) ≤ 2 ^ f.mb := one_le_pow₀ one_le_two
  have hk0 : (0 : ℝ) < 2 ^ k := pow_pos two_pos _
  have hK0 : (0 : ℝ) < 2 ^ topStep f := pow_pos two_pos _
  rw [pow_succ] at hlt hle
  rcases lt_trichotomy k (topStep f) with hk | hk | hk
  · have h2 : 2 ^ k * 2 ≤ (2 : ℝ) ^ topStep f := by
      rw [← pow_succ]; exact pow_le_pow_right₀ one_le_two hk
    have h3 : (k + 1) * 2 ^ f.mb ≤ topStep f * 2 ^ f.mb := Nat.mul_le_mul_right _ hk
    refine iff_of_true ?_ ?_
    · rw [pow_succ]; nlinarith
    · rw [Nat.succ_mul] at h3
      rw [pow_succ]
      have := Nat.two_pow_pos f.mb
      omega
  · rw [hk, mul_lt_mul_iff_left₀ hK0, Nat.add_lt_add_iff_right]
    exact_mod_cast h.toNearestEven.lt_iff (N := 2 ^ (f.mb + 1)) (by simp [pow_succ])
  · have h2 : 2 ^ topStep f * 2 ≤ (2 : ℝ) ^ k := by
      rw [← pow_succ]; exact pow_le_pow_right₀ one_le_two hk
    have h3 : (topStep f + 1) * 2 ^ f.mb ≤ k * 2 ^ f.mb := Nat.mul_le_mul_right _ hk
    have hY := h.normal.resolve_left (by omega)
    have hn := h.normal_nat.resolve_left (by omega)
    refine iff_of_false (not_lt.2 ?_) ?_
    · rw [pow_succ]; nlinarith
    · rw [Nat.succ_mul] at h3
      rw [pow_succ]
      omega

/-- Of the finite floats none is closer to the exact value than the rounded one, and one as close only
where the exact value lies midway between two integers of units. -/
theorem dist_toRat_lt_or (h : RoundsTo f Y k n) {s : Bool} (hlt : n + k * 2 ^ f.mb < f.infMag) {x : ℝ}
    (hx : x = (if s then -1 else 1) * (Y * 2 ^ (f.qmin + k))) {r : Flt f}
    (hrs : r = ofMag s (n + k * 2 ^ f.mb)) {v : Flt f} (hv : v.isFinite = true)
    (hne : v.toRat ≠ r.toRat) :
    |(r.toRat : ℝ) - x| < |(v.toRat : ℝ) - x| ∨
      |(r.toRat : ℝ) - x| = |(v.toRat : ℝ) - x| ∧ |Y - n| = 1 / 2 := by
  have hu : (0 : ℝ) < 2 ^ (f.qmin + k) := zpow_pos two_pos _
  set c : ℝ := if s then -1 else 1 with hc
  have hcc : c * c = 1 := by rw [hc]; split <;> norm_num
  have hca : |c| = 1 := by rw [hc]; split <;> norm_num
  have hr : (r.toRat : ℝ) = c * n * 2 ^ (f.qmin + k) := by
    have hs : ((if s then -1 else 1 : Rat) : ℝ) = c := by rw [hc]; split <;> norm_num
    rw [hrs, toRat_ofMag hlt, h.units_eq, unit_eq, Rat.cast_mul, hs]
    push_cast
    ring
  set V : ℝ := c * (intUnits f v.key / 2 ^ k) with hV
  have hvr : (v.toRat : ℝ) = c * V * 2 ^ (f.qmin + k) := by
    rw [toRat_eq_intUnits hv, unit_eq, hV, ← mul_assoc c, hcc]
    push_cast
    field_simp
  have hdist : ∀ W : ℝ, |c * W * 2 ^ (f.qmin + k) - x| = |W - Y| * 2 ^ (f.qmin + k) := fun W => by
    rw [hx, show c * W * 2 ^ (f.qmin + k) - c * (Y * 2 ^ (f.qmin + k)) =
      c * ((W - Y) * 2 ^ (f.qmin + k)) by ring, abs_mul, hca, one_mul, abs_mul, abs_of_pos hu]
  have hgrid : (∃ j : Int, V = j) ∨ (|V| < 2 ^ f.mb ∧ 2 ^ f.mb ≤ Y) := by
    have hint : (∃ j : Int, (intUnits f v.key / 2 ^ k : ℝ) = j) → ∃ j : Int, V = j := fun ⟨j, hj⟩ =>
      ⟨(if s then -1 else 1) * j, by rw [hV, hj, hc]; push_cast; rfl⟩
    rcases h.normal with rfl | hY
    · exact .inl (hint ⟨_, by rw [pow_zero, div_one]⟩)
    · rcases intUnits_div_int_or_lt f k v.key with hj | hl
      · exact .inl (hint hj)
      · exact .inr ⟨by rwa [hV, abs_mul, hca, one_mul], hY⟩
  have hVn : V ≠ n := fun he => hne (by
    have : (v.toRat : ℝ) = r.toRat := by rw [hvr, hr, he]
    exact_mod_cast this)
  rw [hr, hvr, hdist, hdist, mul_lt_mul_iff_left₀ hu, mul_left_inj' hu.ne']
  exact h.dist_lt_or hgrid hVn

/-- A magnitude that is rounded as `RoundsTo` says is rounded as IEEE 754 asks. -/
theorem rounded (hf : IsFormat f) (h : RoundsTo f Y k n) {s : Bool} {x : Rat}
    (hx : (x : ℝ) = (if s then -1 else 1) * (Y * 2 ^ (f.qmin + k)))
    (hs : x ≠ 0 → s = decide (x < 0)) : Rounded x (ofMag s (n + k * 2 ^ f.mb) : Flt f) := by
  have habs : ((|x| : Rat) : ℝ) = Y * 2 ^ (f.qmin + k) := by
    rw [Rat.cast_abs, hx, abs_mul, abs_of_nonneg (mul_nonneg h.nonneg (zpow_pos two_pos _).le)]
    split <;> simp
  have hiff : |x| < overflowBound f ↔ n + k * 2 ^ f.mb < f.infMag := by
    rw [← h.lt_overflowBound_iff hf, ← habs, Rat.cast_lt]
  refine ⟨hs, ?_⟩
  by_cases hlt : n + k * 2 ^ f.mb < f.infMag
  · rw [if_pos (hiff.2 hlt)]
    refine ⟨isFinite_ofMag hlt, fun v hv hne => ?_⟩
    rcases h.dist_toRat_lt_or hlt hx rfl hv hne with hd | ⟨hd, ht⟩
    · left; exact_mod_cast hd
    · refine .inr ⟨by exact_mod_cast hd, ?_⟩
      have he : Even (n + k * 2 ^ f.mb) :=
        (h.even_of_tie ht).add ((Nat.even_pow.2 ⟨even_two, hf.mb_pos.ne'⟩).mul_left k)
      rw [ofMag_of_lt hlt, evenMag, beq_iff_eq]
      exact Nat.even_iff.1 he
  · rw [if_neg (mt hiff.1 hlt), ofMag_of_le (not_lt.1 hlt), isInf_inf]

end RoundsTo

/-- `y` lies on the same side as the integer `m` of every multiple of half of `2 ^ d`: rounded to a multiple
of `2 ^ d`, both give the same. -/
def SameSide (d m : Nat) (y : ℝ) : Prop :=
  ∀ j : Int, ((j * 2 ^ d : ℝ) ≤ 2 * y ↔ (j * 2 ^ d : Int) ≤ 2 * m) ∧
    (2 * y ≤ (j * 2 ^ d : ℝ) ↔ (2 * m : Int) ≤ j * 2 ^ d)

theorem SameSide.refl (d m : Nat) : SameSide d m m := fun j =>
  ⟨by exact_mod_cast Iff.rfl, by exact_mod_cast Iff.rfl⟩

/-- The last bit of `2 * t + s` only breaks ties: it says whether there is a rest above `2 * t`. -/
theorem SameSide.of_sticky {d t : Nat} {y : ℝ} {p : Prop} [Decidable p] (hd : 2 ≤ d)
    (hp : p → y = 2 * t) (hnp : ¬p → 2 * t < y ∧ y < 2 * t + 2) :
    SameSide d (2 * t + if p then 0 else 1) y := by
  by_cases h : p
  · rw [if_pos h, hp h]
    exact_mod_cast SameSide.refl d (2 * t)
  · obtain ⟨hlo, hhi⟩ := hnp h
    obtain ⟨c, rfl⟩ := Nat.exists_eq_add_of_le' hd
    intro j
    set i : Int := j * 2 ^ c with hi
    have hR : (j * 2 ^ (c + 2) : ℝ) = 2 * (2 * i) := by rw [hi]; push_cast; ring
    have hZ : (j * 2 ^ (c + 2) : Int) = 2 * (2 * i) := by rw [hi]; ring
    rw [hR, hZ, if_neg h]
    rcases lt_or_ge (t : Int) i with hti | hti
    · have h1 : (t : ℝ) + 1 ≤ i := by exact_mod_cast hti
      exact ⟨iff_of_false (by linarith) (by omega), iff_of_true (by linarith) (by omega)⟩
    · have h1 : (i : ℝ) ≤ t := by exact_mod_cast hti
      exact ⟨iff_of_true (by linarith) (by omega), iff_of_false (by linarith) (by omega)⟩

/-- `rne` leaves at most half a unit, and half of one only at an even integer. -/
theorem rne_spec (m d : Nat) :
    (2 * rne m d - 1 : Int) * 2 ^ d ≤ 2 * m ∧ (2 * m : Int) ≤ (2 * rne m d + 1) * 2 ^ d ∧
      ((2 * m : Int) = (2 * rne m d - 1) * 2 ^ d ∨ (2 * m : Int) = (2 * rne m d + 1) * 2 ^ d →
        Even (rne m d)) := by
  have hm := Nat.mod_add_div' m (2 ^ d)
  have hr := Nat.mod_lt m (Nat.two_pow_pos d)
  have hD : ((2 : Int) ^ d) = (2 ^ d : Nat) := by push_cast; rfl
  simp only [rne, hD, Nat.even_iff]
  generalize 2 ^ d = D at *
  generalize m / D = N at *
  generalize m % D = r at *
  have hN : (m : Int) = r + N * D := by exact_mod_cast hm.symm
  split <;> (push_cast; rw [hN]; ring_nf; omega)

/-- `rne` takes the nearest integer, ties to even. -/
theorem SameSide.nearestEven {d m : Nat} {y : ℝ} (h : SameSide d m y) :
    NearestEven (y / 2 ^ d) (rne m d) := by
  have hD : (0 : ℝ) < 2 ^ d := pow_pos two_pos _
  obtain ⟨hlo, hhi, heven⟩ := rne_spec m d
  have h1 := h (2 * rne m d - 1)
  have h2 := h (2 * rne m d + 1)
  push_cast at h1 h2
  refine ⟨abs_le.2 ⟨?_, ?_⟩, fun ht => heven ?_⟩
  · have := h1.1.2 hlo
    rw [le_sub_iff_add_le, le_div_iff₀ hD]; linarith
  · have := h2.2.2 hhi
    rw [sub_le_iff_le_add, div_le_iff₀ hD]; linarith
  · rcases (abs_eq (by norm_num)).1 ht with ht | ht <;> rw [sub_eq_iff_eq_add, div_eq_iff hD.ne'] at ht
    · exact .inr (le_antisymm hhi (h2.1.1 (by linarith)))
    · exact .inl (le_antisymm (h1.2.1 (by linarith)) hlo)

theorem SameSide.roundsTo {d m k : Nat} {y : ℝ} (h : SameSide d m y) (hlt : m < 2 ^ (f.mb + 1 + d))
    (hk : k = 0 ∨ 2 ^ (f.mb + d) ≤ m) : RoundsTo f (y / 2 ^ d) k (rne m d) := by
  have hD : (0 : ℝ) < 2 ^ d := pow_pos two_pos _
  refine ⟨h.nearestEven, ?_, ?_, hk.imp_right fun hm => ?_⟩
  · have h0 := (h 0).1.2 (by omega)
    push_cast at h0
    exact div_nonneg (by linarith) hD.le
  · have hm : ¬((2 * 2 ^ (f.mb + 1) : Int) * 2 ^ d ≤ 2 * m) := by
      rw [mul_assoc, ← pow_add, not_le]
      exact_mod_cast Nat.mul_lt_mul_of_pos_left hlt two_pos
    have hy := mt (h (2 * 2 ^ (f.mb + 1))).1.1 hm
    push_cast at hy
    rw [div_lt_iff₀ hD]; linarith
  · have hm' : (2 * 2 ^ f.mb : Int) * 2 ^ d ≤ 2 * m := by
      rw [mul_assoc, ← pow_add]
      exact_mod_cast Nat.mul_le_mul_left 2 hm
    have hy := (h (2 * 2 ^ f.mb)).1.2 hm'
    push_cast at hy
    rw [le_div_iff₀ hD]; linarith

/-- What `round` does: a magnitude `y * 2 ^ e` that the integer `m` stands for is brought to units of the
quantum and rounded there. Above the quantum nothing is rounded, so `m` has to be exact there. -/
theorem round_roundsTo (neg : Bool) {m : Nat} {e : Int} {y : ℝ}
    (h : SameSide (quantum f m e - e).toNat m y) (hexact : quantum f m e < e → y = m) :
    ∃ (Y : ℝ) (k n : Nat), (round neg m e : Flt f) = ofMag neg (n + k * 2 ^ f.mb) ∧
      y * 2 ^ e = Y * 2 ^ (f.qmin + k) ∧ RoundsTo f Y k n := by
  by_cases hm : m = 0
  case pos =>
    have hy : y = 0 := by
      have h0 := h 0
      simp only [Int.cast_zero, zero_mul, hm] at h0
      linarith [h0.1.2 le_rfl, h0.2.2 le_rfl]
    refine ⟨0, 0, 0, ?_, by simp [hy], ⟨⟨by simp, by simp⟩, le_rfl, pow_pos two_pos _, .inl rfl⟩⟩
    rw [round, if_pos hm, Nat.zero_mul, zero]
  case neg =>
    set q := quantum f m e with hq
    have hq1 : e + m.log2 - f.mb ≤ q := le_max_left _ _
    have hq2 : f.qmin ≤ q := le_max_right _ _
    have hq3 : q = e + m.log2 - f.mb ∨ q = f.qmin := max_choice _ _
    set u := (e - q).toNat with hu
    set d := (q - e).toNat with hd
    have hside : SameSide d (m * 2 ^ u) (y * 2 ^ u) := by
      rcases lt_or_ge q e with hlt | hge
      · rw [hexact hlt]
        exact_mod_cast SameSide.refl d (m * 2 ^ u)
      · rw [show u = 0 by omega, pow_zero, pow_zero, mul_one, mul_one]
        exact h
    have hlt : m * 2 ^ u < 2 ^ (f.mb + 1 + d) :=
      calc m * 2 ^ u < 2 ^ (m.log2 + 1) * 2 ^ u :=
            Nat.mul_lt_mul_of_pos_right Nat.lt_log2_self (Nat.two_pow_pos u)
        _ = 2 ^ (m.log2 + 1 + u) := (pow_add _ _ _).symm
        _ ≤ 2 ^ (f.mb + 1 + d) := Nat.pow_le_pow_right two_pos (by omega)
    have hk : (q - f.qmin).toNat = 0 ∨ 2 ^ (f.mb + d) ≤ m * 2 ^ u := by
      refine or_iff_not_imp_left.2 fun hne => ?_
      calc 2 ^ (f.mb + d) = 2 ^ m.log2 * 2 ^ u := by rw [← pow_add]; congr 1; omega
        _ ≤ m * 2 ^ u := Nat.mul_le_mul_right _ (Nat.log2_self_le hm)
    refine ⟨_, _, _, by rw [round, if_neg hm], ?_, hside.roundsTo hlt hk⟩
    have hz : (2 : ℝ) ^ e = 2 ^ u / 2 ^ d * 2 ^ (f.qmin + (q - f.qmin).toNat) := by
      rw [← zpow_natCast, ← zpow_natCast, ← zpow_sub₀ two_ne_zero, ← zpow_add₀ two_ne_zero]
      congr 1; omega
    rw [hz]
    ring

/-- `round` of an integer that stands for the exact magnitude rounds that magnitude once. -/
theorem rounded_round (hf : IsFormat f) {s : Bool} {m : Nat} {e : Int} {y : ℝ} {x : Rat}
    (h : SameSide (quantum f m e - e).toNat m y) (hexact : quantum f m e < e → y = m)
    (hx : (x : ℝ) = (if s then -1 else 1) * (y * 2 ^ e)) (hs : x ≠ 0 → s = decide (x < 0)) :
    Rounded x (round s m e : Flt f) := by
  obtain ⟨Y, k, n, hr, hy, hY⟩ := round_roundsTo s h hexact
  rw [hr]
  exact hY.rounded hf (hy ▸ hx) hs

/-- The sign of a signed magnitude that is not zero. -/
theorem sign_of_signed {s : Bool} {x y : Rat} (hy : 0 ≤ y) (hx : x = (if s then -1 else 1) * y)
    (h0 : x ≠ 0) : s = decide (x < 0) := by
  have hpos : 0 < y := hy.lt_of_ne' (by rintro rfl; exact h0 (by rw [hx, mul_zero]))
  cases s <;> simp_all [hpos.le]

theorem rounded_round_exact (hf : IsFormat f) (s : Bool) (m : Nat) (e : Int) :
    Rounded ((if s then -1 else 1) * (m * 2 ^ e)) (round s m e : Flt f) := by
  refine rounded_round hf (SameSide.refl _ m) (fun _ => rfl) ?_ (sign_of_signed (by positivity) rfl)
  cases s <;> simp

theorem rounded_zero (hf : IsFormat f) (s : Bool) : Rounded 0 (zero s : Flt f) := by
  simpa [round] using rounded_round_exact hf s 0 0

theorem rounded_add (hf : IsFormat f) {a b : Flt f} (ha : a.isFinite = true) (hb : b.isFinite = true) :
    Rounded (a.toRat + b.toRat) (a.add b) := by
  obtain ⟨s, m, hm, rfl⟩ := eq_num_of_isFinite ha
  obtain ⟨t, n, hn, rfl⟩ := eq_num_of_isFinite hb
  obtain ⟨z, e, hz, hadd⟩ := add_num_num (s := s) (t := t) hm hn
  rw [hadd, ← hz]
  by_cases h0 : z = 0
  · rw [if_pos h0, h0, Int.cast_zero, zero_mul]
    exact rounded_zero hf _
  · have hsign : (z : Rat) = (if decide (z < 0) then -1 else 1) * z.natAbs := by
      rcases lt_or_ge z 0 with hlt | hge
      · simp [hlt, abs_of_neg]
      · simp [hge, abs_of_nonneg]
    rw [if_neg h0, hsign, mul_assoc]
    exact rounded_round_exact hf _ _ _

theorem rounded_mul (hf : IsFormat f) {a b : Flt f} (ha : a.isFinite = true) (hb : b.isFinite = true) :
    Rounded (a.toRat * b.toRat) (a.mul b) := by
  obtain ⟨s, m, hm, rfl⟩ := eq_num_of_isFinite ha
  obtain ⟨t, n, hn, rfl⟩ := eq_num_of_isFinite hb
  have hv : (num s m : Flt f).toRat * (num t n : Flt f).toRat = (if s ^^ t then -1 else 1) *
      ((sig f m.val * sig f n.val : Nat) * 2 ^ (expo f m.val + expo f n.val)) := by
    rw [toRat_num_eq hm, toRat_num_eq hn, zpow_add₀ two_ne_zero]
    push_cast
    cases s <;> cases t <;> · simp; ring
  rw [hv, mul, if_neg (not_or.2 ⟨hm, hn⟩)]
  exact rounded_round_exact hf _ _ _

end Sys2Proof.Flt
end

section
open Sys2Proof Sys2Proof.Machine

/-- Settles O50: each operation hands `round` the exact result. -/
theorem sumAndProductAreRoundedOnce : Obligations.SumAndProductAreRoundedOnce := by
  unfold Obligations.SumAndProductAreRoundedOnce
  intro f hf a b ha hb
  refine ⟨Flt.rounded_add hf ha hb, ?_, Flt.rounded_mul hf ha hb⟩
  rw [sub_eq_add_neg, ← Flt.toRat_neg]
  exact Flt.rounded_add hf ha (by rwa [Flt.isFinite_neg])
end

section
/-! Quotients and square roots (00_scope.md R12): the integer handed to `round` has bits enough below the
quantum that its last one only says whether the exact value lies above the rest. -/

namespace Sys2Proof.Machine

theorem IsFormat.qmin_nonpos {f : Fmt} (h : IsFormat f) : f.qmin ≤ 0 := by
  rcases h with rfl | rfl <;> decide

theorem IsFormat.two_le_topExpo {f : Fmt} (h : IsFormat f) : 2 ≤ Flt.topExpo f := by
  rcases h with rfl | rfl <;> decide

end Sys2Proof.Machine

namespace Sys2Proof.Flt

open Machine

variable {f : Fmt}

theorem sig_ne_zero {m : Nat} (h : m ≠ 0) : sig f m ≠ 0 := by
  have hu := units_strictMono f (Nat.pos_of_ne_zero h)
  rw [units_zero] at hu
  exact (Nat.pos_of_mul_pos_right hu).ne'

/-- An integer of `mb + 3` bits has its last two bits below the quantum. -/
theorem add_two_le_quantum {m : Nat} (e : Int) (hm : 2 ^ (f.mb + 2) ≤ m) : e + 2 ≤ quantum f m e := by
  have h : f.mb + 2 ≤ m.log2 := (Nat.le_log2 (by have := Nat.two_pow_pos (f.mb + 2); omega)).2 hm
  exact le_max_of_le_left (by omega)

/-- The integer quotient of `ofQuot` has at least `mb + 5` bits. -/
theorem two_pow_le_quot {a b : Nat} (ha : a ≠ 0) (hb : b ≠ 0) (p : Nat) :
    2 ^ (p + 4) ≤ a * 2 ^ (b.log2 + p + 5) / b := by
  rw [Nat.le_div_iff_mul_le (Nat.pos_of_ne_zero hb)]
  calc 2 ^ (p + 4) * b ≤ 2 ^ (p + 4) * 2 ^ (b.log2 + 1) :=
        Nat.mul_le_mul_left _ Nat.lt_log2_self.le
    _ = 1 * 2 ^ (b.log2 + p + 5) := by rw [one_mul, ← pow_add]; congr 1; omega
    _ ≤ a * 2 ^ (b.log2 + p + 5) := Nat.mul_le_mul_right _ (Nat.pos_of_ne_zero ha)

/-- A quotient lies strictly between its floor and the next integer, unless it is exact. -/
theorem quot_bounds (n : Nat) {b : Nat} (hb : b ≠ 0) :
    (n % b = 0 → 2 * (n / b : ℝ) = 2 * (n / b : Nat)) ∧
      (n % b ≠ 0 → 2 * (n / b : Nat) < 2 * (n / b : ℝ) ∧ 2 * (n / b : ℝ) < 2 * (n / b : Nat) + 2) := by
  have hb' : (0 : ℝ) < b := by exact_mod_cast Nat.pos_of_ne_zero hb
  have hn : (n : ℝ) = (n % b : Nat) + (n / b : Nat) * b := by exact_mod_cast (Nat.mod_add_div' n b).symm
  have hq : (n / b : ℝ) = (n / b : Nat) + (n % b : Nat) / b := by
    rw [hn, add_div, mul_div_cancel_right₀ _ hb'.ne', add_comm]
  have hr : ((n % b : Nat) : ℝ) / b < 1 := by
    rw [div_lt_one hb']; exact_mod_cast Nat.mod_lt n (Nat.pos_of_ne_zero hb)
  rw [hq]
  refine ⟨fun h => by simp [h], fun h => ?_⟩
  have h0 : 0 < ((n % b : Nat) : ℝ) / b := div_pos (by exact_mod_cast Nat.pos_of_ne_zero h) hb'
  exact ⟨by linarith, by linarith⟩

theorem rounded_ofQuot (hf : IsFormat f) (s : Bool) (a : Nat) {b : Nat} (hb : b ≠ 0) (e : Int) :
    Rounded ((if s then -1 else 1) * (a / b * 2 ^ e)) (ofQuot s a b e : Flt f) := by
  by_cases ha : a = 0
  · simpa [ofQuot, ha] using rounded_round_exact hf s 0 (e - (b.log2 + f.mb + 5 : Nat) - 1)
  · have hb' : (b : ℝ) ≠ 0 := by exact_mod_cast hb
    obtain ⟨hexact, hrest⟩ := quot_bounds (a * 2 ^ (b.log2 + f.mb + 5)) hb
    have hbits := two_pow_le_quot ha hb f.mb
    have hq := add_two_le_quantum (f := f) (m := 2 * (a * 2 ^ (b.log2 + f.mb + 5) / b) +
      if a * 2 ^ (b.log2 + f.mb + 5) % b = 0 then 0 else 1) (e - (b.log2 + f.mb + 5 : Nat) - 1)
      (by rw [pow_add] at hbits ⊢; omega)
    refine rounded_round hf (SameSide.of_sticky (by omega) hexact hrest) (by omega) ?_
      (sign_of_signed (by positivity) rfl)
    have hz : (2 : ℝ) ^ e = 2 ^ (b.log2 + f.mb + 5) * 2 * 2 ^ (e - (b.log2 + f.mb + 5 : Nat) - 1) := by
      rw [← zpow_natCast, ← zpow_add_one₀ two_ne_zero, ← zpow_add₀ two_ne_zero]
      congr 1; omega
    push_cast at hz ⊢
    rw [hz]
    cases s <;> · simp; ring

theorem rounded_div (hf : IsFormat f) {a b : Flt f} (ha : a.isFinite = true) (hb : b.isFinite = true)
    (h0 : b.isZero = false) : Rounded (a.toRat / b.toRat) (a.div b) := by
  obtain ⟨s, m, hm, rfl⟩ := eq_num_of_isFinite ha
  obtain ⟨t, n, hn, rfl⟩ := eq_num_of_isFinite hb
  have hz : n.val ≠ 0 := by simpa [isZero] using h0
  have hv : (num s m : Flt f).toRat / (num t n : Flt f).toRat = (if s ^^ t then -1 else 1) *
      ((sig f m.val : Rat) / sig f n.val * 2 ^ (expo f m.val - expo f n.val)) := by
    rw [toRat_num_eq hm, toRat_num_eq hn, zpow_sub₀ two_ne_zero]
    cases s <;> cases t <;> · simp; ring
  rw [hv, div, if_neg hm, if_neg hn, if_neg hz]
  exact rounded_ofQuot hf _ _ (sig_ne_zero hz) _

theorem isqrtFrom_eq_sqrt {k n r : Nat} (hlo : r * r ≤ n) (hhi : n < (r + 2 ^ k) * (r + 2 ^ k)) :
    isqrtFrom k n r = Nat.sqrt n := by
  induction k generalizing r with
  | zero => exact Nat.eq_sqrt.2 ⟨hlo, hhi⟩
  | succ k ih =>
    rw [isqrtFrom]
    split
    case isTrue h => exact ih h (by rwa [add_assoc, ← mul_two, ← pow_succ])
    case isFalse h => exact ih hlo (not_le.1 h)

/-- The integer square root is Mathlib's. -/
theorem isqrt_eq_sqrt (n : Nat) : isqrt n = Nat.sqrt n := by
  refine isqrtFrom_eq_sqrt (Nat.zero_le _) ?_
  rw [zero_add, ← pow_add]
  exact Nat.lt_log2_self.trans_le (Nat.pow_le_pow_right two_pos (by omega))

theorem root_bounds (n : Nat) :
    (isqrt n * isqrt n = n → 2 * √(n : ℝ) = 2 * (isqrt n : Nat)) ∧
      (isqrt n * isqrt n ≠ n → 2 * (isqrt n : ℝ) < 2 * √(n : ℝ) ∧
        2 * √(n : ℝ) < 2 * (isqrt n : Nat) + 2) := by
  rw [isqrt_eq_sqrt]
  have hlt := Real.real_sqrt_lt_nat_sqrt_succ (a := n)
  have hle := Real.nat_sqrt_le_real_sqrt (a := n)
  refine ⟨fun h => ?_, fun h => ⟨?_, by linarith⟩⟩
  · conv_lhs => rw [← h]
    push_cast
    rw [Real.sqrt_mul_self (Nat.cast_nonneg _)]
  · have hne : (Nat.sqrt n : ℝ) ≠ √n := fun he => h (by
      have := congrArg (fun x => x * x) he
      simp only [Real.mul_self_sqrt (Nat.cast_nonneg n)] at this
      exact_mod_cast this)
    linarith [hle.lt_of_ne hne]

/-- The integer root of `sqrt` has at least `mb + 4` bits. -/
theorem two_pow_le_isqrt {S j : Nat} (hS : S ≠ 0) {p : Nat} (hj : 2 * (p + 3) ≤ j) :
    2 ^ (p + 3) ≤ isqrt (S * 2 ^ j) := by
  rw [isqrt_eq_sqrt, Nat.le_sqrt, ← pow_add, ← two_mul]
  calc 2 ^ (2 * (p + 3)) ≤ 1 * 2 ^ j := by rw [one_mul]; exact Nat.pow_le_pow_right two_pos hj
    _ ≤ S * 2 ^ j := Nat.mul_le_mul_right _ (Nat.pos_of_ne_zero hS)

/-- What `sqrt` does with a positive number: the exact root is rounded. -/
theorem sqrt_roundsTo {m : Fin (f.infMag + 1)} (h0 : m.val ≠ 0) (hm : m.val ≠ f.infMag) :
    ∃ (Y : ℝ) (k n : Nat), (num false m : Flt f).sqrt = ofMag false (n + k * 2 ^ f.mb) ∧
      √((sig f m.val : ℝ) * 2 ^ expo f m.val) = Y * 2 ^ (f.qmin + k) ∧ RoundsTo f Y k n := by
  set E := expo f m.val with hE
  set j := 2 * f.mb + 6 + (E % 2).toNat with hj
  set r := isqrt (sig f m.val * 2 ^ j) with hr
  obtain ⟨hexact, hrest⟩ := root_bounds (sig f m.val * 2 ^ j)
  rw [← hr] at hexact hrest
  have hbits : 2 ^ (f.mb + 3) ≤ r := two_pow_le_isqrt (sig_ne_zero h0) (by omega)
  have hq := add_two_le_quantum (f := f)
    (m := 2 * r + if r * r = sig f m.val * 2 ^ j then 0 else 1) ((E - j) / 2 - 1)
    (by rw [pow_succ] at hbits; omega)
  obtain ⟨Y, k, n, hround, hY, hto⟩ := round_roundsTo (f := f) false (e := (E - j) / 2 - 1)
    (SameSide.of_sticky (by omega) hexact hrest) (by omega)
  refine ⟨Y, k, n, ?_, ?_, hto⟩
  · rw [sqrt, if_neg h0, if_neg Bool.false_ne_true, if_neg hm]
    exact hround
  · have hz : (2 : ℝ) ^ E = 2 ^ j * (2 ^ ((E - j) / 2)) ^ 2 := by
      rw [← zpow_natCast, ← zpow_natCast, ← zpow_mul, ← zpow_add₀ two_ne_zero]
      congr 1; omega
    rw [← hY, hz, ← mul_assoc, Real.sqrt_mul (by positivity), Real.sqrt_sq (by positivity),
      zpow_sub_one₀ two_ne_zero]
    push_cast
    ring

/-- A root is never midway between two integers of units: the square of an odd number of half units is no
significand and no even number. -/
theorem root_not_tie (hf : IsFormat f) {S : Nat} {E : Int} (hS : S < 2 ^ (f.mb + 1)) (hE : f.qmin ≤ E)
    {Y : ℝ} {k n : Nat} (h : RoundsTo f Y k n) (hY : √((S : ℝ) * 2 ^ E) = Y * 2 ^ (f.qmin + k)) :
    |Y - n| ≠ 1 / 2 := by
  intro ht
  obtain ⟨N, hodd, hN⟩ : ∃ N : Nat, Odd N ∧ (N : ℝ) = 2 * Y := by
    rcases (abs_eq (by norm_num)).1 ht with ht | ht
    · exact ⟨2 * n + 1, odd_two_mul_add_one n, by push_cast; linarith⟩
    · cases n with
      | zero => rw [Nat.cast_zero] at ht; linarith [h.nonneg]
      | succ n => exact ⟨2 * n + 1, odd_two_mul_add_one n, by push_cast at ht ⊢; linarith⟩
  have hu : (0 : ℝ) < 2 ^ (f.qmin + k) := zpow_pos two_pos _
  obtain ⟨c, hc⟩ : ∃ c : Int, c = E + 2 - 2 * (f.qmin + k) := ⟨_, rfl⟩
  have hsq : (N : ℝ) ^ 2 = S * 2 ^ c := by
    have hx : (Y * 2 ^ (f.qmin + k)) ^ 2 = (S : ℝ) * 2 ^ E := by
      rw [← hY, Real.sq_sqrt (by positivity)]
    have hz : (2 : ℝ) ^ E * 4 = 2 ^ c * (2 ^ (f.qmin + k)) ^ 2 := by
      rw [hc, show (4 : ℝ) = 2 ^ (2 : Int) by norm_num, ← zpow_natCast, ← zpow_mul,
        ← zpow_add₀ two_ne_zero, ← zpow_add₀ two_ne_zero]
      congr 1; push_cast; ring
    refine mul_right_cancel₀ (pow_pos hu 2).ne' ?_
    rw [mul_assoc, ← hz, ← mul_assoc, ← hx, hN]
    ring
  rcases lt_or_ge 0 c with hpos | hneg
  · obtain ⟨d, hd⟩ := Int.eq_succ_of_zero_lt hpos
    rw [hd, ← Nat.cast_succ, zpow_natCast] at hsq
    have hnat : N ^ 2 = S * 2 ^ (d + 1) := by exact_mod_cast hsq
    have heven : Even (N ^ 2) := hnat ▸ (Nat.even_pow.2 ⟨even_two, d.succ_ne_zero⟩).mul_left S
    exact Nat.not_even_iff_odd.2 hodd.pow heven
  · obtain ⟨d, hd⟩ := Int.exists_eq_neg_ofNat hneg
    rw [hd, zpow_neg, zpow_natCast, ← div_eq_mul_inv, eq_div_iff (by positivity)] at hsq
    have hnat : N ^ 2 * 2 ^ d = S := by exact_mod_cast hsq
    have hle : N ≤ S := calc
      N ≤ N ^ 2 := Nat.le_self_pow two_ne_zero N
      _ ≤ N ^ 2 * 2 ^ d := Nat.le_mul_of_pos_right _ (Nat.two_pow_pos d)
      _ = S := hnat
    have hqmin := hf.qmin_nonpos
    have hnormal : (2 ^ (f.mb + 1) : ℝ) ≤ N := by
      rw [hN, pow_succ']
      exact mul_le_mul_of_nonneg_left (h.normal.resolve_left (by omega)) two_pos.le
    have : 2 ^ (f.mb + 1) ≤ N := by exact_mod_cast hnormal
    omega

/-- The root of a finite value is far below the overflow threshold. -/
theorem sqrt_toRat_lt_overflowBound (hf : IsFormat f) {a : Flt f} (ha : a.isFinite = true) :
    √(a.toRat : ℝ) < overflowBound f := by
  have ht := hf.two_le_topExpo
  refine lt_of_lt_of_le ((Real.sqrt_lt' (zpow_pos two_pos _)).2 ?_) (two_pow_topExpo_le_overflowBound hf)
  calc (a.toRat : ℝ) ≤ |(a.toRat : ℝ)| := le_abs_self _
    _ < 2 ^ topExpo f := (abs_toRat_lt_overflowBound hf ha).trans (overflowBound_lt_two_pow hf)
    _ ≤ 2 ^ ((topExpo f - 1) * (2 : Nat)) := zpow_le_zpow_right₀ one_le_two (by push_cast; omega)
    _ = (2 ^ (topExpo f - 1)) ^ 2 := by rw [zpow_mul, zpow_natCast]

theorem sqrt_nearest (hf : IsFormat f) {a : Flt f} (ha : a.isFinite = true) (h0 : 0 ≤ a.toRat) :
    a.sqrt.isFinite = true ∧ 0 ≤ a.sqrt.toRat ∧
      ∀ v : Flt f, v.isFinite = true → v.toRat ≠ a.sqrt.toRat →
        |(a.sqrt.toRat : ℝ) - √a.toRat| < |(v.toRat : ℝ) - √a.toRat| := by
  obtain ⟨s, m, hm, rfl⟩ := eq_num_of_isFinite ha
  by_cases hz : m.val = 0
  case pos =>
    have ht : (num s m : Flt f).toRat = 0 := by rw [toRat_num_eq hm]; simp [hz, sig]
    rw [sqrt_of_isZero ((isZero_iff_val s m).2 hz), ht]
    refine ⟨ha, le_rfl, fun v _ hv => ?_⟩
    simpa using hv
  case neg =>
    have hv : 0 < (sig f m.val : Rat) * 2 ^ expo f m.val :=
      mul_pos (by exact_mod_cast Nat.pos_of_ne_zero (sig_ne_zero hz)) (zpow_pos two_pos _)
    obtain rfl : s = false := by
      cases s with
      | false => rfl
      | true => rw [toRat_num_eq hm, if_pos rfl] at h0; linarith
    have hbound := sqrt_toRat_lt_overflowBound hf ha
    have hval : ((num false m : Flt f).toRat : ℝ) = (sig f m.val : ℝ) * 2 ^ expo f m.val := by
      rw [toRat_num_eq hm]; simp
    obtain ⟨Y, k, n, hr, hY, hto⟩ := sqrt_roundsTo hz hm
    rw [hval, hY] at hbound
    have hlt := (hto.lt_overflowBound_iff hf).1 hbound
    rw [hr, hval, hY]
    refine ⟨isFinite_ofMag hlt, ?_, fun v hvf hne => ?_⟩
    · rw [toRat_ofMag hlt, if_neg Bool.false_ne_true, one_mul]
      positivity
    · refine (hto.dist_toRat_lt_or hlt (by simp) rfl hvf hne).resolve_right fun h => ?_
      exact root_not_tie hf (sig_lt f m.val) (qmin_le_expo f m.val) hto hY h.2

end Sys2Proof.Flt
end

section
open Sys2Proof Sys2Proof.Machine

/-- Settles O51: `round` gets an integer whose last bit tells the exact result from a tie, and a root is
no tie. -/
theorem quotientAndRootAreRoundedOnce : Obligations.QuotientAndRootAreRoundedOnce := by
  unfold Obligations.QuotientAndRootAreRoundedOnce
  exact fun f hf a b ha hb => ⟨Flt.rounded_div hf ha hb, Flt.sqrt_nearest hf ha⟩
end

section
/-! Conversions (00_scope.md R12): a value that the format holds is rounded to itself. -/

namespace Sys2Proof.Flt

open Machine

variable {f g : Fmt}

theorem sign_round (s : Bool) (m : Nat) (e : Int) : (round s m e : Flt f).sign = s := by
  unfold round
  split <;> rfl

theorem convert_num (s : Bool) {m : Fin (f.infMag + 1)} (h : m.val ≠ f.infMag) :
    (num s m : Flt f).convert = (round s (sig f m.val) (expo f m.val) : Flt g) := if_neg h

@[simp] theorem convert_inf (s : Bool) : (inf s : Flt f).convert = (inf s : Flt g) := by
  simp [inf_eq s (f := f), convert]

theorem convert_zero (hf : IsFormat f) (s : Bool) : (zero s : Flt f).convert = (zero s : Flt g) := by
  rw [zero_eq s (f := f), convert_num s hf.infMag_ne_zero.symm, Fin.val_zero,
    show sig f 0 = 0 by simp [sig], round, if_pos rfl]

theorem sign_convert {a : Flt f} (h : a.isFinite = true) : (a.convert : Flt g).sign = a.sign := by
  obtain ⟨s, m, hm, rfl⟩ := eq_num_of_isFinite h
  rw [convert_num s hm, sign_round]; rfl

theorem rounded_convert (hg : IsFormat g) {a : Flt f} (h : a.isFinite = true) :
    Rounded a.toRat (a.convert : Flt g) := by
  obtain ⟨s, m, hm, rfl⟩ := eq_num_of_isFinite h
  rw [convert_num s hm, toRat_num_eq hm]
  exact rounded_round_exact hg _ _ _

/-- A value below the overflow threshold is rounded to a finite one. -/
theorem isFinite_of_rounded {x : Rat} {r : Flt f} (h : Rounded x r) (hx : |x| < overflowBound f) :
    r.isFinite = true := by
  obtain ⟨-, hr⟩ := h
  rw [if_pos hx] at hr
  exact hr.1

/-- A value that a finite float has is rounded to that value. -/
theorem toRat_eq_of_rounded {a r : Flt f} (h : Rounded a.toRat r) (ha : a.isFinite = true)
    (hx : |a.toRat| < overflowBound f) : r.toRat = a.toRat := by
  obtain ⟨-, hr⟩ := h
  rw [if_pos hx] at hr
  by_contra hne
  have hd := hr.2 a ha (Ne.symm hne)
  rw [sub_self, abs_zero, abs_eq_zero, sub_eq_zero] at hd
  exact hd.elim (abs_nonneg _).not_gt fun he => hne he.1

/-- A magnitude that fits the significand, at an exponent the format has, is a whole number of units: it
loses nothing. -/
theorem RoundsTo.eq_of_exact {Y : ℝ} {k n S : Nat} {E : Int} (h : RoundsTo f Y k n)
    (hY : (S : ℝ) * 2 ^ E = Y * 2 ^ (f.qmin + k)) (hS : S < 2 ^ (f.mb + 1)) (hE : f.qmin ≤ E) :
    (n : ℝ) = Y := by
  obtain ⟨q, hq⟩ : ∃ q, q = f.qmin + k := ⟨_, rfl⟩
  rw [← hq] at hY
  have hu : (0 : ℝ) < 2 ^ q := zpow_pos two_pos _
  have hqE : q ≤ E := by
    rcases h.normal with rfl | hn
    · omega
    · have hlt : (2 : ℝ) ^ (f.mb + q) < 2 ^ ((f.mb + 1 : Nat) + E) :=
        calc (2 : ℝ) ^ (f.mb + q) = 2 ^ f.mb * 2 ^ q := by rw [zpow_add₀ two_ne_zero, zpow_natCast]
          _ ≤ Y * 2 ^ q := mul_le_mul_of_nonneg_right hn hu.le
          _ = S * 2 ^ E := hY.symm
          _ < 2 ^ (f.mb + 1) * 2 ^ E :=
              mul_lt_mul_of_pos_right (by exact_mod_cast hS) (zpow_pos two_pos _)
          _ = 2 ^ ((f.mb + 1 : Nat) + E) := by rw [zpow_add₀ two_ne_zero, zpow_natCast]
      have := (zpow_lt_zpow_iff_right₀ one_lt_two).1 hlt
      omega
  have hz : (2 : ℝ) ^ E = 2 ^ (E - q).toNat * 2 ^ q := by
    rw [← zpow_natCast, ← zpow_add₀ two_ne_zero]
    congr 1; omega
  have hYn : Y = (S * 2 ^ (E - q).toNat : Nat) := by
    rw [hz, ← mul_assoc] at hY
    push_cast
    exact (mul_right_cancel₀ hu.ne' hY).symm
  have hnear := h.toNearestEven
  rw [hYn] at hnear ⊢
  exact_mod_cast hnear.eq_of_natCast

/-- A format with no fewer fraction bits and no greater least subnormal holds the value exactly. -/
theorem toRat_convert (hg : IsFormat g) (hmb : f.mb ≤ g.mb) (hq : g.qmin ≤ f.qmin) {a : Flt f}
    (h : a.isFinite = true) (hx : |a.toRat| < overflowBound g) :
    (a.convert : Flt g).toRat = a.toRat := by
  obtain ⟨s, m, hm, rfl⟩ := eq_num_of_isFinite h
  obtain ⟨Y, k, n, hr, hY, hto⟩ := round_roundsTo (f := g) s (e := expo f m.val)
    (SameSide.refl _ (sig f m.val)) fun _ => rfl
  have hn : (n : ℝ) = Y := hto.eq_of_exact hY
    ((sig_lt f m.val).trans_le (Nat.pow_le_pow_right two_pos (by omega)))
    (hq.trans (qmin_le_expo f m.val))
  have habs : ((|(num s m : Flt f).toRat| : Rat) : ℝ) = Y * 2 ^ (g.qmin + k) := by
    rw [toRat_num_eq hm, ← hY, abs_mul, abs_of_nonneg (by positivity : (0 : Rat) ≤ sig f m.val * _)]
    split <;> simp
  have hlt := (hto.lt_overflowBound_iff hg).1 (habs ▸ by exact_mod_cast hx)
  have hunits : (units g (n + k * 2 ^ g.mb) : Rat) * 2 ^ g.qmin = sig f m.val * 2 ^ expo f m.val := by
    refine Rat.cast_injective (α := ℝ) ?_
    push_cast
    rw [hY, hto.units_eq, unit_eq, ← hn]
    push_cast
    ring
  rw [convert_num s hm, hr, toRat_ofMag hlt, hunits, toRat_num_eq hm]

end Sys2Proof.Flt
end

section
open Sys2Proof Sys2Proof.Machine

/-- Settles O53: binary64 holds every binary32 value, and a value that a format holds is rounded to
itself. -/
theorem conversionsRoundOnce : Obligations.ConversionsRoundOnce := by
  unfold Obligations.ConversionsRoundOnce
  have h32 : IsFormat Fmt.b32 := .inl rfl
  have h64 : IsFormat Fmt.b64 := .inr rfl
  have hbound : overflowBound Fmt.b32 < overflowBound Fmt.b64 := by
    have hle : (2 : ℝ) ^ Flt.topExpo Fmt.b32 ≤ 2 ^ (Flt.topExpo Fmt.b64 - 1) :=
      zpow_le_zpow_right₀ one_le_two (by decide)
    exact_mod_cast ((Flt.overflowBound_lt_two_pow h32).trans_le hle).trans_le
      (Flt.two_pow_topExpo_le_overflowBound h64)
  refine ⟨fun a ha => ?_, fun a ha => Flt.rounded_convert h32 ha, rfl, rfl, fun s =>
    ⟨Flt.convert_inf s, Flt.convert_inf s, Flt.convert_zero h32 s, Flt.convert_zero h64 s⟩⟩
  have hx : |a.toRat| < overflowBound Fmt.b32 := by
    exact_mod_cast Flt.abs_toRat_lt_overflowBound h32 ha
  have hfin : a.to64.isFinite = true :=
    Flt.isFinite_of_rounded (Flt.rounded_convert h64 ha) (hx.trans hbound)
  have hval : a.to64.toRat = a.toRat :=
    Flt.toRat_convert h64 (by decide) (by decide) ha (hx.trans hbound)
  have hback : Rounded a.toRat a.to64.to32 := hval ▸ Flt.rounded_convert h32 hfin
  have hfin' := Flt.isFinite_of_rounded hback hx
  refine ⟨hfin, hval, Flt.eq_of_key_eq (Flt.isNan_of_isFinite hfin') (Flt.isNan_of_isFinite ha) ?_ ?_⟩
  · rw [← Flt.toRat_eq_iff hfin' ha, Flt.toRat_eq_of_rounded hback ha hx]
  · rw [Flt.to32, Flt.sign_convert hfin, Flt.to64, Flt.sign_convert ha]
end

section
/-! The address map (20_memory.md R81): `locate` and `Target.addr` are inverse on the targets that exist. -/

namespace Sys2Proof.Machine

theorem ifaceAt_addr (r : IfaceReg) : ifaceAt r.addr = some r := by cases r <;> rfl

theorem IfaceReg.addr_lt (r : IfaceReg) : r.addr < 0x100 ∧ r.addr % 4 = 0 := by cases r <;> decide

theorem addr_of_ifaceAt {a : Nat} {r : IfaceReg} (h : ifaceAt a = some r) : r.addr = a := by
  unfold ifaceAt at h
  split at h <;> cases h <;> rfl

/-- The register at word `k` of band `i` has the address that names it. -/
theorem bandAt_addr (i : Nat) {k : Nat} (hk : k < 4) : (bandAt i k).addr = 0x150 + 16 * i + 4 * k := by
  match k, hk with
  | 0, _ => rfl
  | 1, _ | 2, _ | 3, _ => simp only [bandAt, CtlReg.addr]; omega

theorem bandAt_mapped {i : Nat} (hi : i < Config.nBands) (k : Nat) : (Target.ctl (bandAt i k)).Mapped := by
  unfold bandAt
  split <;> exact hi

/-- The four registers of a band, by the word at which they stand. -/
theorem ctlAt_band {i k : Nat} (hi : i < Config.nBands) (hk : k < 4) :
    ctlAt (0x150 + 16 * i + 4 * k) = some (bandAt i k) := by
  have hi' : i < 4 := hi
  unfold ctlAt
  rw [if_pos (by simp only [Config.nBands]; omega)]
  congr 2 <;> omega

theorem ctlAt_addr {r : CtlReg} (h : (Target.ctl r).Mapped) : ctlAt r.addr = some r := by
  cases r with
  | bandEn i => exact bandAt_addr i (k := 0) (by decide) ▸ ctlAt_band h (by decide)
  | bandFreq i => exact bandAt_addr i (k := 1) (by decide) ▸ ctlAt_band h (by decide)
  | bandBw i => exact bandAt_addr i (k := 2) (by decide) ▸ ctlAt_band h (by decide)
  | bandGainDb i => exact bandAt_addr i (k := 3) (by decide) ▸ ctlAt_band h (by decide)
  | _ => rfl

theorem CtlReg.addr_range {r : CtlReg} (h : (Target.ctl r).Mapped) :
    0x100 ≤ r.addr ∧ r.addr < 0x10000 ∧ r.addr % 4 = 0 := by
  cases r with
  | bandEn i | bandFreq i | bandBw i | bandGainDb i =>
    have hi : i < 4 := h
    simp only [CtlReg.addr]
    omega
  | _ => decide

theorem of_ctlAt {a : Nat} {r : CtlReg} (ha : a % 4 = 0) (h : ctlAt a = some r) :
    (Target.ctl r).Mapped ∧ r.addr = a := by
  unfold ctlAt at h
  split at h
  case isTrue hb =>
    obtain rfl : bandAt ((a - 0x150) / 16) ((a - 0x150) % 16 / 4) = r := by simpa using h
    simp only [Config.nBands] at hb
    exact ⟨bandAt_mapped (by simp only [Config.nBands]; omega) _,
      (bandAt_addr _ (by omega)).trans (by omega)⟩
  case isFalse => split at h <;> cases h <;> exact ⟨trivial, rfl⟩

/-- Every target that exists is found at its address. -/
theorem targetAt_addr {t : Target} (h : t.Mapped) : targetAt t.addr = some t ∧ t.addr % 4 = 0 := by
  have hfft : Config.fftMax = 8192 := rfl
  cases t with
  | iface r =>
    obtain ⟨hlt, h4⟩ := r.addr_lt
    exact ⟨by rw [Target.addr, targetAt, if_pos hlt, ifaceAt_addr]; rfl, h4⟩
  | ctl r =>
    obtain ⟨hlo, hhi, h4⟩ := CtlReg.addr_range h
    exact ⟨by rw [Target.addr, targetAt, if_neg (by omega), if_pos hhi, ctlAt_addr h]; rfl, h4⟩
  | power k =>
    have hk : k ≤ Config.fftMax / 2 := h
    rw [Target.addr, targetAt, if_neg (by omega), if_neg (by omega), if_pos (by omega)]
    exact ⟨by congr 2; omega, by omega⟩
  | peak k =>
    have hk : k ≤ Config.fftMax / 2 := h
    rw [Target.addr, targetAt, if_neg (by omega), if_neg (by omega), if_neg (by omega),
      if_pos (by omega)]
    exact ⟨by congr 2; omega, by omega⟩
  | audio c j =>
    obtain ⟨hc, hj⟩ : c < 2 ∧ j < 8192 := h
    have hch : Config.nChanMax = 2 := rfl
    rw [Target.addr, audioAddr, targetAt, if_neg (by omega), if_neg (by omega), if_neg (by omega),
      if_neg (by omega), if_pos (by omega)]
    exact ⟨by congr 2 <;> omega, by omega⟩

theorem of_targetAt {a : Nat} {t : Target} (ha : a % 4 = 0) (h : targetAt a = some t) :
    t.Mapped ∧ t.addr = a := by
  have hfft : Config.fftMax = 8192 := rfl
  have hch : Config.nChanMax = 2 := rfl
  have hbuf : Config.bufMax = 8192 := rfl
  unfold targetAt at h
  split at h
  · obtain ⟨r, hr, rfl⟩ := Option.map_eq_some_iff.1 h
    exact ⟨trivial, addr_of_ifaceAt hr⟩
  split at h
  · obtain ⟨r, hr, rfl⟩ := Option.map_eq_some_iff.1 h
    exact of_ctlAt ha hr
  split at h
  · cases h
    simp only [Target.Mapped, Target.addr]; omega
  split at h
  · cases h
    simp only [Target.Mapped, Target.addr]; omega
  split at h
  · cases h
    simp only [Target.Mapped, Target.addr, audioAddr]; omega
  · cases h

theorem locate_of_mapped {a : Word} {t : Target} (h : t.Mapped) (ha : t.addr = a.toNat) :
    locate a = some t := by
  obtain ⟨ht, h4⟩ := targetAt_addr h
  rw [locate, ← ha, if_pos h4, ht]

theorem of_locate {a : Word} {t : Target} (h : locate a = some t) : t.Mapped ∧ t.addr = a.toNat := by
  unfold locate at h
  split at h
  · exact of_targetAt ‹_› h
  · cases h

@[simp] theorem isCmd_cmdAddr : isCmd cmdAddr = true := by decide

/-- Only CMD executes commands. -/
theorem isCmd_of_locate {a : Word} {t : Target} (h : locate a = some t) :
    isCmd a = decide (t = .iface .cmd) := by
  rw [isCmd, h]
  by_cases ht : t = .iface .cmd <;> simp [ht]

end Sys2Proof.Machine
end

section
/-! The order of the float type (00_scope.md R14): `le` is a preorder on the numbers, read off the key. -/

namespace Sys2Proof.Flt

variable {f : Fmt} {a b c : Flt f}

theorem le_iff : a.le b = true ↔ a.isNan = false ∧ b.isNan = false ∧ a.key ≤ b.key := by
  simp [le, and_assoc]

theorem lt_iff : a.lt b = true ↔ a.isNan = false ∧ b.isNan = false ∧ a.key < b.key := by
  simp [lt, and_assoc]

theorem key_le_of_le (h : a.le b = true) : a.key ≤ b.key := (le_iff.1 h).2.2

theorem key_lt_of_lt (h : a.lt b = true) : a.key < b.key := (lt_iff.1 h).2.2

theorem isNan_of_lt (h : a.lt b = true) : b.isNan = false := (lt_iff.1 h).2.1

protected theorem le_trans (hab : a.le b = true) (hbc : b.le c = true) : a.le c = true := by
  obtain ⟨ha, -, hk⟩ := le_iff.1 hab
  obtain ⟨-, hc, hk'⟩ := le_iff.1 hbc
  exact le_iff.2 ⟨ha, hc, hk.trans hk'⟩

@[simp] theorem key_neg (a : Flt f) : a.neg.key = -a.key := by
  cases a with
  | nan => rfl
  | num s m => cases s <;> simp [neg, key]

@[simp] theorem key_abs (a : Flt f) : a.abs.key = |a.key| := by
  cases a with
  | nan => rfl
  | num s m => cases s <;> simp [abs, key]

@[simp] theorem isNan_abs (a : Flt f) : a.abs.isNan = a.isNan := by cases a <;> rfl

protected theorem neg_le_neg (h : a.le b = true) : b.neg.le a.neg = true := by
  obtain ⟨ha, hb, hk⟩ := le_iff.1 h
  exact le_iff.2 ⟨by rwa [isNan_neg], by rwa [isNan_neg], by rw [key_neg, key_neg]; omega⟩

/-- A value from `-b` to `b` has a magnitude up to `b`. -/
theorem abs_le_of_neg_le_le (hl : b.neg.le a = true) (hr : a.le b = true) : a.abs.le b = true := by
  obtain ⟨ha, hb, hk⟩ := le_iff.1 hr
  obtain ⟨-, -, hk'⟩ := le_iff.1 hl
  rw [key_neg] at hk'
  exact le_iff.2 ⟨by rwa [isNan_abs], hb, by rw [key_abs]; exact abs_le.2 ⟨hk', hk⟩⟩

end Sys2Proof.Flt
end

section
/-! What commands and steps leave alone, and how a step reaches each part of the state: the rules by which
the invariants are proved part by part. -/

namespace Sys2Proof.Machine

/-- The error a command records is an error. -/
theorem errorOf_ne_none {i : Instr} {s : State} {c : Cause} (h : errorOf i s = some c) : c ≠ .none := by
  have hcmd : ∀ ok, s.commandError ok = some c → c ≠ .none := fun ok he => by
    rcases commandError_some he with ⟨rfl, -⟩ | ⟨rfl, -, -⟩ <;> decide
  cases i with
  | nop => cases h
  | init nch =>
    simp only [errorOf] at h
    split at h <;> cases h
    decide
  | _ => exact hcmd _ h

/-- The fields that no command's effect writes (10_state.md R48; 60_exceptions.md R343). -/
theorem effectOf_host (i : Instr) (s : State) :
    (effectOf i s).arg0 = s.arg0 ∧ (effectOf i s).ctl = s.ctl ∧ (effectOf i s).bus = s.bus ∧
      (effectOf i s).rdata = s.rdata ∧ (effectOf i s).err = s.err ∧
      (effectOf i s).cause = s.cause := by
  cases i with
  | process n =>
    have h := processSamples_same Config.params n s
    exact ⟨h.arg0, h.ctl, h.bus, h.rdata, h.err, h.cause⟩
  | _ => exact ⟨rfl, rfl, rfl, rfl, rfl, rfl⟩

theorem effectOf_result {i : Instr} (s : State) (h : isResp i = false) :
    (effectOf i s).result = s.result := by
  cases i with
  | process n => exact (processSamples_same Config.params n s).result
  | respBand _ _ | respLs _ | respHs _ => cases h
  | _ => rfl

theorem effectOf_rate {i : Instr} (s : State) (h : isInit i = false) :
    (effectOf i s).rate = s.rate ∧ (effectOf i s).nchan = s.nchan ∧
      (effectOf i s).initDone = s.initDone := by
  cases i with
  | process n =>
    have h := processSamples_same Config.params n s
    exact ⟨h.rate, h.nchan, h.initDone⟩
  | init nch => cases h
  | _ => exact ⟨rfl, rfl, rfl⟩

theorem effectOf_mem {i : Instr} (s : State) (h : isProcess i = false) :
    (effectOf i s).mem = s.mem := by
  cases i with
  | process n => cases h
  | _ => rfl

theorem effectOf_ch {i : Instr} (s : State) (hp : isProcess i = false) (hi : isInit i = false) :
    (effectOf i s).ch = s.ch := by
  cases i with
  | process n => cases hp
  | init nch => cases hi
  | _ => rfl

theorem effectOf_an {i : Instr} (s : State) (ha : isAnalyser i = false) (hi : isInit i = false) :
    (effectOf i s).an = s.an := by
  cases i with
  | process n => exact (processSamples_same Config.params n s).an
  | init nch => cases hi
  | anWrite _ _ | anSkip _ | anSetlen _ | anSetwarp | anSetspeed | anClrpeak => cases ha
  | _ => rfl

/-- The words a host may store to without running a command: ARG0, the parameter registers, AUDIO. -/
def Target.Stores (t : Target) : Prop :=
  t = .iface .arg0 ∨ (∃ r, t = .ctl r) ∨ ∃ c j, t = .audio c j

/-- What a step can do: it moves only the model's bus fields and the error record, which then stays, says
ERR = 0 with CAUSE = NONE, or holds an error; it stores a word of the host; or it has the effect of a
command without an error. -/
theorem step_next_cases {s t : State} (h : step s = .next t) :
    (t = { s with err := t.err, cause := t.cause, bus := s.bus.tail, rdata := t.rdata } ∧
      ((t.err = s.err ∧ t.cause = s.cause) ∨ (t.err = false ∧ t.cause = .none) ∨
        (t.err = true ∧ t.cause ≠ .none))) ∨
    (∃ v u, u.Mapped ∧ u.Stores ∧ t = State.writeTarget { s with bus := s.bus.tail } v u) ∨
    ∃ i, errorOf i { s with bus := s.bus.tail } = none ∧
      t = effectOf i { s with bus := s.bus.tail } := by
  rcases step_cases h with ⟨hb, rfl⟩ | ⟨a, rest, hb, rfl⟩ | ⟨a, v, rest, hb, -, -, rfl⟩ |
    ⟨a, v, rest, i, hb, -, -, he⟩ | ⟨a, v, rest, hb, hc, rfl⟩
  case inl => exact .inl ⟨by rw [hb, List.tail_nil, ← hb], .inl ⟨rfl, rfl⟩⟩
  all_goals rw [hb, List.tail_cons]
  · rcases busRead_cases Config.params a { s with bus := rest } with ⟨-, hr⟩ | ⟨u, -, hr⟩ <;> rw [hr]
    · exact .inl ⟨rfl, .inr (.inr ⟨rfl, nofun⟩)⟩
    · exact .inl ⟨rfl, .inl ⟨rfl, rfl⟩⟩
  · exact .inl ⟨rfl, .inr (.inr ⟨rfl, nofun⟩)⟩
  · rcases exec_next he with ⟨c, hc, rfl⟩ | ⟨hn, rfl⟩
    · exact .inl ⟨rfl, .inr (.inr ⟨rfl, errorOf_ne_none hc⟩)⟩
    · exact .inr (.inr ⟨i, hn, rfl⟩)
  · rcases busWrite_cases a v { s with bus := rest } with hw | ⟨u, hu, hro, hw⟩ <;> rw [hw]
    · exact .inl ⟨rfl, .inr (.inr ⟨rfl, nofun⟩)⟩
    · have hm := (of_locate hu).1
      cases u with
      | iface r =>
        cases r with
        | arg0 => exact .inr (.inl ⟨v, _, hm, .inl rfl, rfl⟩)
        | status =>
          simp only [State.writeTarget, State.writeStatus]
          split
          · exact .inl ⟨rfl, .inr (.inl ⟨rfl, rfl⟩)⟩
          · exact .inl ⟨rfl, .inl ⟨rfl, rfl⟩⟩
        | _ => exact .inl ⟨rfl, .inl ⟨rfl, rfl⟩⟩
      | ctl r => exact .inr (.inl ⟨v, _, hm, .inr (.inl ⟨r, rfl⟩), rfl⟩)
      | audio c j => exact .inr (.inl ⟨v, _, hm, .inr (.inr ⟨c, j, rfl⟩), rfl⟩)
      | power k | peak k => exact .inl ⟨rfl, .inl ⟨rfl, rfl⟩⟩

/-- `process` without an error takes no more samples than a buffer holds. -/
theorem le_bufMax_of_no_error {n : Nat} {s : State} (h : errorOf (.process n) s = none) :
    n ≤ Config.bufMax := by
  by_contra hn
  cases hi : s.initDone <;> simp [errorOf, hi, hn] at h

/-- How a step changes the channel records: not at all, by `init`, or by `process`. -/
theorem step_ch_cases {s t : State} (h : step s = .next t) :
    (t.ch = s.ch ∧ t.initDone = s.initDone) ∨
    (∃ nch, t = initialise Config.params nch { s with bus := s.bus.tail }) ∨
    ∃ n, n ≤ Config.bufMax ∧ t = processSamples Config.params n { s with bus := s.bus.tail } := by
  rcases step_next_cases h with ⟨ht, -⟩ | ⟨v, u, -, hu, rfl⟩ | ⟨i, hn, rfl⟩
  · rw [ht]; exact .inl ⟨rfl, rfl⟩
  · rcases hu with rfl | ⟨r, rfl⟩ | ⟨c, j, rfl⟩ <;> exact .inl ⟨rfl, rfl⟩
  · cases i with
    | init nch => exact .inr (.inl ⟨nch, rfl⟩)
    | process n => exact .inr (.inr ⟨n, le_bufMax_of_no_error hn, rfl⟩)
    | _ => exact .inl ⟨rfl, rfl⟩

end Sys2Proof.Machine
end

section
/-! `process` is a sequence of sub-blocks within the block (44_channel.md R251, R252). -/

namespace Sys2Proof.Machine

theorem subblockLen_le (rem : Nat) : subblockLen rem ≤ rem := by
  unfold subblockLen Config.subMax Config.subNom
  split <;> omega

theorem mem_subblocksFrom {b : Nat × Nat} :
    ∀ {fuel off rem : Nat}, b ∈ subblocksFrom fuel off rem → b.1 + b.2 ≤ off + rem := by
  intro fuel
  induction fuel with
  | zero => intro off rem h; cases h
  | succ fuel ih =>
    intro off rem h
    have hle := subblockLen_le rem
    rw [subblocksFrom] at h
    split at h
    · cases h
    · rcases List.mem_cons.1 h with rfl | h
      · exact Nat.add_le_add_left hle off
      · have := ih h
        omega

/-- Every sub-block lies within the block. -/
theorem mem_subblocks {n : Nat} {b : Nat × Nat} (h : b ∈ subblocks n) : b.1 + b.2 ≤ n :=
  (mem_subblocksFrom h).trans (Nat.zero_add n).le

/-- A reflexive and transitive relation that clearing CHG and every sub-block of a channel have, `process`
has. -/
theorem processSamples_rel {R : State → State → Prop} (hr : ∀ s, R s s)
    (ht : ∀ s t u, R s t → R t u → R s u) {P : Params} {n : Nat}
    (hchg : ∀ s : State, R s { s with chg := false })
    (hsub : ∀ (s : State) (b : Nat × Nat) (c : Nat), b.1 + b.2 ≤ n → c < Config.nChanMax →
      R s (chSubblock P b.1 b.2 s c)) (s : State) : R s (processSamples P n s) := by
  have hall : ∀ (s : State), ∀ b ∈ subblocks n, R s (subblockAll P s b) := fun s b hb =>
    foldl_rel hr ht _ (fun u c hc => hsub u b c (mem_subblocks hb)
      ((List.mem_range.1 hc).trans_le (Nat.lt_succ_iff.1 s.nchan.isLt))) s
  exact ht _ _ _ (hchg s) (foldl_rel hr ht _ hall _)

end Sys2Proof.Machine
end

section
/-! What holds of every channel record: a sub-block replaces one record, so a property that every sub-block
keeps survives `process`. -/

namespace Sys2Proof.Machine

theorem State.chan_mem {s : State} {c : Nat} (h : c < s.ch.length) : s.chan c ∈ s.ch := by
  simp [State.chan, List.getD_eq_getElem?_getD, h]

theorem forall_ch_setChan {I : Chan → Prop} {s : State} {c : Nat} {y : Chan}
    (h : ∀ x ∈ s.ch, I x) (hy : c < s.ch.length → I y) : ∀ x ∈ (s.setChan c y).ch, I x := by
  intro x hx
  rw [State.setChan_ch] at hx
  rcases lt_or_ge c s.ch.length with hc | hc
  · rcases List.mem_or_eq_of_mem_set hx with hx | rfl
    · exact h x hx
    · exact hy hc
  · rw [List.set_eq_of_length_le hc] at hx
    exact h x hx

/-- `I` survives every sub-block of a channel (44_channel.md R253), whatever the parameter registers, the
rate and the samples are. -/
def SubblockKeeps (P : Params) (I : Chan → Prop) : Prop :=
  ∀ (r : Controls) (rate : F32) (x : Chan) (d : List F32) (y : Chan) (w : List F32) (b : Bool),
    I x → x.subblock P r rate d = some (y, w, b) → I y

theorem SubblockKeeps.chSubblock {P : Params} {I : Chan → Prop} (hk : SubblockKeeps P I) (off k : Nat)
    {s : State} (h : ∀ x ∈ s.ch, I x) (c : Nat) : ∀ x ∈ (chSubblock P off k s c).ch, I x := by
  rcases chSubblock_cases P off k s c with he | ⟨y, w, b, hy, -, he⟩ <;> rw [he]
  · exact h
  · exact forall_ch_setChan h fun hc => hk _ _ _ _ _ _ _ (h _ (State.chan_mem hc)) hy

theorem SubblockKeeps.processSamples {P : Params} {I : Chan → Prop} (hk : SubblockKeeps P I) (n : Nat)
    {s : State} (h : ∀ x ∈ s.ch, I x) : ∀ x ∈ (processSamples P n s).ch, I x :=
  processSamples_rel (R := fun s t => (∀ x ∈ s.ch, I x) → ∀ x ∈ t.ch, I x) (fun _ => id)
    (fun _ _ _ g f => f ∘ g) (fun _ => id) (fun _ b c _ _ hs => hk.chSubblock b.1 b.2 hs c) s h

/-- What `init` gives every record and every sub-block keeps, every step keeps. -/
theorem SubblockKeeps.step {I : Chan → Prop} (hk : SubblockKeeps Config.params I)
    (hi : ∀ r rate, I (Chan.initial Config.params r rate)) {s t : State} (hs : ∀ x ∈ s.ch, I x)
    (h : Machine.step s = .next t) : ∀ x ∈ t.ch, I x := by
  rcases step_ch_cases h with ⟨hch, -⟩ | ⟨nch, rfl⟩ | ⟨n, -, rfl⟩
  · rwa [hch]
  · intro x hx
    rw [initialise_ch] at hx
    exact List.eq_of_mem_replicate hx ▸ hi _ _
  · exact hk.processSamples n hs

theorem xfStep_le {en : Bool} {xf : Nat} (h : xf ≤ Config.xfSteps) : xfStep en xf ≤ Config.xfSteps := by
  unfold xfStep
  simp only
  split <;> split <;> omega

theorem subblock_keeps_ok (P : Params) : SubblockKeeps P Chan.Ok := by
  intro r rate x d y w b hx hy
  obtain ⟨-, hxf, -, hbands⟩ := Chan.subblock_some hy
  exact ⟨hxf ▸ xfStep_le hx.xf_le, hbands.trans hx.bands_length⟩

theorem Chan.initial_ok (P : Params) (r : Controls) (rate : F32) : (Chan.initial P r rate).Ok :=
  ⟨Nat.zero_le _, by simp [Chan.initial]⟩

theorem step_keeps_ch_ok {s t : State} (hs : ∀ x ∈ s.ch, x.Ok) (h : step s = .next t) :
    ∀ x ∈ t.ch, x.Ok :=
  (subblock_keeps_ok _).step (Chan.initial_ok _) hs h

theorem step_keeps_ch_length {s t : State} (hs : s.ch.length = Config.nChanMax)
    (h : step s = .next t) : t.ch.length = Config.nChanMax := by
  rcases step_ch_cases h with ⟨hch, -⟩ | ⟨nch, rfl⟩ | ⟨n, -, rfl⟩
  · rwa [hch]
  · exact List.length_replicate
  · exact (processSamples_same _ n _).ch_length.trans hs

end Sys2Proof.Machine
end

section
/-! What holds of AUDIO memory (20_memory.md R86, R87): it stays in canonical form, and only bytes of AUDIO
words are stored. -/

namespace Sys2Proof.Machine

/-- Canonical form, with entries at addresses of AUDIO only. -/
def Memory.Ok (m : Memory) : Prop :=
  m.wf ∧ ∀ e ∈ m, audioAddr 0 0 ≤ e.1 ∧ e.1 < audioAddr Config.nChanMax 0

theorem Memory.Ok.write {m : Memory} (h : m.Ok) {a : Nat} (v : Byte) (hlo : audioAddr 0 0 ≤ a)
    (hhi : a < audioAddr Config.nChanMax 0) : Memory.Ok (m.write a v) := by
  refine ⟨Memory.wf_write h.1 a v, fun e he => ?_⟩
  rcases Memory.mem_write he with rfl | he
  · exact ⟨hlo, hhi⟩
  · exact h.2 e he

theorem Memory.Ok.writeWord {m : Memory} (h : m.Ok) {a : Nat} (w : Word) (hlo : audioAddr 0 0 ≤ a)
    (hhi : a + 4 ≤ audioAddr Config.nChanMax 0) : Memory.Ok (m.writeWord a w) :=
  (((h.write _ hlo (by omega)).write _ (by omega) (by omega)).write _ (by omega) (by omega)).write _
    (by omega) (by omega)

theorem Memory.Ok.writeFloats (P : Params) (vs : List F32) :
    ∀ (d a : Nat) {m : Memory}, m.Ok → audioAddr 0 0 ≤ a →
      a + 4 * vs.length ≤ audioAddr Config.nChanMax 0 → Memory.Ok (m.writeFloats P d a vs) := by
  induction vs with
  | nil => intro d a m h _ _; exact h
  | cons v vs ih =>
    intro d a m h hlo hhi
    rw [List.length_cons] at hhi
    exact ih _ _ (h.writeWord _ hlo (by omega)) (by omega) (by omega)

/-- Samples within a channel's buffer lie within AUDIO (20_memory.md R86). -/
theorem audioAddr_range {c off k : Nat} (hc : c < Config.nChanMax) (hk : off + k ≤ Config.bufMax) :
    audioAddr 0 0 ≤ audioAddr c off ∧ audioAddr c off + 4 * k ≤ audioAddr Config.nChanMax 0 := by
  simp only [Config.nChanMax, Config.bufMax, audioAddr] at *
  omega

theorem chSubblock_mem_ok (P : Params) {off k c : Nat} (hc : c < Config.nChanMax)
    (hk : off + k ≤ Config.bufMax) {s : State} (h : s.mem.Ok) : (chSubblock P off k s c).mem.Ok := by
  rcases chSubblock_cases P off k s c with he | ⟨y, w, b, -, hw, he⟩ <;> rw [he]
  · exact h
  · obtain ⟨hlo, hhi⟩ := audioAddr_range hc hk
    exact Memory.Ok.writeFloats P w _ _ h hlo (hw ▸ hhi)

theorem processSamples_mem_ok (P : Params) {n : Nat} (hn : n ≤ Config.bufMax) {s : State}
    (h : s.mem.Ok) : (processSamples P n s).mem.Ok :=
  processSamples_rel (R := fun s t => s.mem.Ok → t.mem.Ok) (fun _ => id) (fun _ _ _ g f => f ∘ g)
    (fun _ => id) (fun _ _ _ hb hc => chSubblock_mem_ok P hc (hb.trans hn)) s h

theorem step_keeps_mem_ok {s t : State} (hs : s.mem.Ok) (h : step s = .next t) : t.mem.Ok := by
  rcases step_next_cases h with ⟨ht, -⟩ | ⟨v, u, hm, hu, rfl⟩ | ⟨i, hn, rfl⟩
  · rw [ht]; exact hs
  · rcases hu with rfl | ⟨r, rfl⟩ | ⟨c, j, rfl⟩
    · exact hs
    · exact hs
    · obtain ⟨hc, hj⟩ := hm
      obtain ⟨hlo, hhi⟩ := audioAddr_range hc (k := 1) hj
      exact hs.writeWord v hlo hhi
  · cases i with
    | process n => exact processSamples_mem_ok _ (le_bufMax_of_no_error hn) hs
    | _ => exact hs

end Sys2Proof.Machine
end

section
/-! What holds of the analyser: its commands and `init` are compositions of seven operations, and what each
of those keeps every step keeps. -/

namespace Sys2Proof.Machine

/-- One operation on the analyser: a sample pushed, the effect of a command, or AN_INIT (45_analyser.md
R282, R284, R298 to R302, R306). -/
inductive Analyser.Op (P : Params) : Analyser → Analyser → Prop
  | push (phold : Bool) (w : Word) (d : Nat) (a : Analyser) : Op P a (anPush P phold (a, d) w).1
  | skip (n : Nat) (a : Analyser) : Op P a (a.skip n)
  | setLen (n : Nat) (rate : F32) (a : Analyser) : Op P a (a.setLen P n rate)
  | setWarp (d : Nat) (v : F32) (a : Analyser) : Op P a (a.setWarp (drawNan P d 0) v)
  | setSpeed (d : Nat) (v rate : F32) (a : Analyser) :
      Op P a (a.setSpeed P (drawNan P d 0) v rate)
  | clearPeak (a : Analyser) : Op P a a.clearPeak
  | initial (rate : F32) (a : Analyser) : Op P a (a.initial P rate)

theorem writeAnalyser_ops (P : Params) (c n : Nat) (s : State) :
    Relation.ReflTransGen (Analyser.Op P) s.an (writeAnalyser P c n s).an :=
  foldl_rel (R := fun x y : Analyser × Nat => Relation.ReflTransGen (Analyser.Op P) x.1 y.1)
    (fun _ => .refl) (fun _ _ _ => .trans) _ (fun x w _ => .single (.push _ w x.2 x.1)) (s.an, s.draws)

theorem step_an_ops {s t : State} (h : step s = .next t) :
    Relation.ReflTransGen (Analyser.Op Config.params) s.an t.an := by
  rcases step_next_cases h with ⟨ht, -⟩ | ⟨v, u, -, hu, rfl⟩ | ⟨i, -, rfl⟩
  · rw [ht]
  · rcases hu with rfl | ⟨r, rfl⟩ | ⟨c, j, rfl⟩ <;> exact .refl
  · cases i with
    | nop | respBand _ _ | respLs _ | respHs _ => exact .refl
    | init nch => exact .single (.initial _ _)
    | process n =>
      have hp := processSamples_same Config.params n { s with bus := s.bus.tail }
      rw [effectOf, hp.an]
    | anWrite c n => exact writeAnalyser_ops _ c n { s with bus := s.bus.tail }
    | anSkip n => exact .single (.skip n _)
    | anSetlen n => exact .single (.setLen n _ _)
    | anSetwarp => exact .single (.setWarp _ _ _)
    | anSetspeed => exact .single (.setSpeed _ _ _ _)
    | anClrpeak => exact .single (.clearPeak _)

/-- What every operation on the analyser keeps, every step keeps. -/
theorem step_keeps_an {I : Analyser → Prop} (hI : ∀ a b, Analyser.Op Config.params a b → I a → I b)
    {s t : State} (hs : I s.an) (h : step s = .next t) : I t.an := by
  have hops := step_an_ops h
  generalize t.an = b at hops ⊢
  induction hops with
  | refl => exact hs
  | tail _ hop ih => exact hI _ _ hop ih

theorem anLength_pow (n : Nat) : ∃ k, anLength n = 2 ^ k := ⟨_, rfl⟩

theorem anLength_range (n : Nat) : Config.fftMin ≤ anLength n ∧ anLength n ≤ Config.fftMax := by
  unfold anLength
  set m := min (max n Config.fftMin) Config.fftMax with hm
  have hlo : Config.fftMin ≤ m := le_min (le_max_right _ _) (by decide)
  have hhi : m ≤ Config.fftMax := min_le_right _ _
  refine ⟨?_, (Nat.log2_self_le (by unfold Config.fftMin at hlo; omega)).trans hhi⟩
  have h4 : 4 ≤ m.log2 := (Nat.le_log2 (by unfold Config.fftMin at hlo; omega)).2 hlo
  exact Nat.pow_le_pow_right two_pos h4

section
variable {a : Analyser} {P : Params}

theorem Analyser.Ok.clear (h : a.Ok) : a.clear.Ok :=
  { h with
    warpst_length := List.length_replicate
    power_length := List.length_replicate
    peak_length := List.length_replicate }

theorem Analyser.Ok.setAsm (h : a.Ok) (rate : F32) : (a.setAsm P rate).Ok := { h with }

theorem Analyser.Ok.initial (h : a.Ok) (rate : F32) : (a.initial P rate).Ok := by
  have hlen := h.len_min
  refine Analyser.Ok.setAsm (Analyser.Ok.clear ?_) rate
  exact { h with
    ipbuf_length := List.length_replicate
    wr_lt := (by decide : 0 < Config.ipSize)
    pend_lt := (by unfold Config.fftMin at hlen; omega : 0 < a.len / 2) }

theorem Analyser.Ok.skip (h : a.Ok) (n : Nat) : (a.skip n).Ok :=
  { h with
    wr_lt := Nat.mod_lt _ (by decide)
    pend_lt := (Nat.zero_le _).trans_lt h.pend_lt }

theorem Analyser.Ok.setLen (h : a.Ok) (n : Nat) (rate : F32) : (a.setLen P n rate).Ok := by
  obtain ⟨hmin, hmax⟩ := anLength_range n
  have hpos : 0 < anLength n / 2 := by unfold Config.fftMin at hmin; omega
  refine Analyser.Ok.setAsm (a := { { a with len := anLength n }.clear with pend := 0 }) ?_ rate
  exact { h with
    len_pow := anLength_pow n
    len_min := hmin
    len_max := hmax
    pend_lt := hpos
    warpst_length := List.length_replicate
    power_length := List.length_replicate
    peak_length := List.length_replicate }

theorem Analyser.Ok.clearPeak (h : a.Ok) : a.clearPeak.Ok :=
  { h with peak_length := List.length_replicate }

/-- A stored value is read back, whatever NaN pattern is drawn. -/
theorem ofWord_toWord_drawNan (P : Params) (d i : Nat) (v : F32) :
    F32.ofWord (v.toWord (drawNan P d i)) = v := F32.ofWord_toWord v _

theorem Analyser.Ok.setWarp (h : a.Ok) (d : Nat) (v : F32) : (a.setWarp (drawNan P d 0) v).Ok := by
  obtain ⟨hlo, hhi⟩ := Flt.clamp_mem (v := v) (lo := Const.warpMax.neg) (hi := Const.warpMax)
    (by decide) (by decide) (by decide)
  refine Analyser.Ok.clear { h with wfact_le := ?_ }
  rw [ofWord_toWord_drawNan]
  exact Flt.abs_le_of_neg_le_le hlo hhi

theorem Analyser.Ok.setSpeed (h : a.Ok) (d : Nat) (v rate : F32) :
    (a.setSpeed P (drawNan P d 0) v rate).Ok := by
  obtain ⟨hlo, hhi⟩ := Flt.clamp_mem (v := v) (lo := Const.speedMin) (hi := Const.speedMax)
    (by decide) (by decide) (by decide)
  refine Analyser.Ok.setAsm
    (a := { a with speed := (v.clamp Const.speedMin Const.speedMax).toWord (drawNan P d 0) }) ?_ rate
  refine { h with speed_ge := ?_, speed_le := ?_ }
  · rw [ofWord_toWord_drawNan]; exact hlo
  · rw [ofWord_toWord_drawNan]; exact hhi

@[simp] theorem warpStages_length (w : F32) (ys : List F32) :
    ∀ old new, (warpStages w old new ys).length = ys.length := by
  induction ys with
  | nil => intro _ _; rfl
  | cons y ys ih => intro _ _; simp [warpStages, ih]

@[simp] theorem warpStep_length (w : F32) (line : List F32) (x : F32) :
    (warpStep w line x).length = line.length := by
  cases line with
  | nil => rfl
  | cons y ys => simp [warpStep]

theorem Analyser.warped_length (a : Analyser) : a.warped.length = min a.len a.warpst.length := by
  have h := foldl_rel (f := warpStep a.wfactF.neg) (R := fun s t => t.length = s.length)
    (fun _ => rfl) (fun _ _ _ h g => g.trans h) a.fresh (fun s x _ => warpStep_length _ s x)
    (a.warpst.take a.len)
  rw [Analyser.warped, h, List.length_take]

@[simp] theorem Analyser.newPower_length (d : Nat) (line : List F32) :
    (a.newPower P d line).length = a.len / 2 + 1 := by simp [Analyser.newPower]

theorem peakUpdate_length (phold : Bool) {power peak : List Word} (h : power.length = peak.length) :
    (peakUpdate phold power peak).length = peak.length := by
  cases phold <;> simp [peakUpdate, h]

/-- A pass keeps the buffers' sizes; it moves neither the write position nor the settings. -/
theorem Analyser.anPass_ok {n : Nat} (h : { a with pend := n }.Ok)
    (phold : Bool) (d : Nat) : { anPass P phold d a with pend := n }.Ok := by
  have hmax := h.len_max
  have hwarp := h.warpst_length
  have hpow := h.power_length
  have hpeak := h.peak_length
  simp only [Config.fftMax] at hmax hwarp hpow hpeak
  refine { h with warpst_length := ?_, power_length := ?_, peak_length := ?_ }
  · simp only [anPass, List.length_append, a.warped_length, List.length_drop, Config.fftMax]
    omega
  · simp only [anPass, List.length_append, Analyser.newPower_length, List.length_drop, Config.fftMax]
    omega
  · rw [anPass, List.length_append, peakUpdate_length _ (by simp; omega), List.length_take,
      List.length_drop]
    simp only [Config.fftMax]
    omega

theorem Analyser.Ok.push (h : a.Ok) (phold : Bool) (d : Nat) (w : Word) :
    (anPush P phold (a, d) w).1.Ok := by
  have hlen := h.len_min
  have hpend := h.pend_lt
  have hstored : ∀ n, n < a.len / 2 → { a with
      ipbuf := a.ipbuf.set a.wr w, wr := (a.wr + 1) % Config.ipSize, pend := n }.Ok := fun n hn =>
    { h with
      wr_lt := Nat.mod_lt _ (by decide)
      pend_lt := hn
      ipbuf_length := List.length_set.trans h.ipbuf_length }
  unfold Config.fftMin at hlen
  unfold anPush
  simp only
  split
  · exact Analyser.anPass_ok (hstored 0 (by omega)) phold d
  · exact hstored _ (by omega)

theorem Analyser.Op.ok {b : Analyser} (hop : Analyser.Op P a b) (h : a.Ok) : b.Ok := by
  cases hop with
  | push phold w d => exact h.push phold d w
  | skip n => exact h.skip n
  | setLen n rate => exact h.setLen n rate
  | setWarp d v => exact h.setWarp d v
  | setSpeed d v rate => exact h.setSpeed d v rate
  | clearPeak => exact h.clearPeak
  | initial rate => exact h.initial rate

end

theorem step_keeps_an_ok {s t : State} (hs : s.an.Ok) (h : step s = .next t) : t.an.Ok :=
  step_keeps_an (fun _ _ => Analyser.Op.ok) hs h

end Sys2Proof.Machine
end

section
/-! What holds of the parameter registers (10_state.md R43 to R48). -/

namespace Sys2Proof.Machine

@[simp] theorem Controls.write_bands_length (r : Controls) (v : Word) (x : CtlReg) :
    (r.write v x).bands.length = r.bands.length := by
  cases x with
  | bandEn i | bandFreq i | bandBw i | bandGainDb i => exact List.length_set
  | _ => rfl

/-- Only the host changes the parameter registers (10_state.md R48). -/
theorem step_ctl_cases {s t : State} (h : step s = .next t) :
    t.ctl = s.ctl ∨ ∃ v r, t.ctl = s.ctl.write v r := by
  rcases step_next_cases h with ⟨ht, -⟩ | ⟨v, u, -, hu, rfl⟩ | ⟨i, -, rfl⟩
  · rw [ht]; exact .inl rfl
  · rcases hu with rfl | ⟨r, rfl⟩ | ⟨c, j, rfl⟩
    · exact .inl rfl
    · exact .inr ⟨v, r, rfl⟩
    · exact .inl rfl
  · obtain ⟨-, hctl, -⟩ := effectOf_host i { s with bus := s.bus.tail }
    exact .inl hctl

theorem step_keeps_bands_length {s t : State} (hs : s.ctl.bands.length = Config.nBands)
    (h : step s = .next t) : t.ctl.bands.length = Config.nBands := by
  rcases step_ctl_cases h with hc | ⟨v, r, hc⟩ <;> rw [hc]
  · exact hs
  · rw [Controls.write_bands_length]; exact hs

end Sys2Proof.Machine
end

section
open Sys2Proof Sys2Proof.Machine

/-- Settles O57, part by part: records, analyser, parameter registers and memory. -/
theorem everyStepKeepsInv : Obligations.EveryStepKeepsInv := by
  unfold Obligations.EveryStepKeepsInv
  intro s t hs h
  obtain ⟨hwf, haudio⟩ := step_keeps_mem_ok ⟨hs.mem_wf, hs.mem_audio⟩ h
  exact
    { ch_length := step_keeps_ch_length hs.ch_length h
      ch_ok := step_keeps_ch_ok hs.ch_ok h
      an_ok := step_keeps_an_ok hs.an_ok h
      bands_length := step_keeps_bands_length hs.bands_length h
      mem_wf := hwf
      mem_audio := haudio }
end

section
/-! Rounding is monotone (00_scope.md R12), and so is every operation in each operand: an exact value
between two floats is rounded to a float between them. -/

namespace Sys2Proof.Flt

open Machine

variable {f g : Fmt}

theorem le_of_toRat_le {a b : Flt f} (ha : a.isFinite = true) (hb : b.isFinite = true)
    (h : a.toRat ≤ b.toRat) : a.le b = true :=
  le_iff.2 ⟨isNan_of_isFinite ha, isNan_of_isFinite hb, (toRat_le_iff ha hb).1 h⟩

theorem toRat_le_of_le {a b : Flt f} (ha : a.isFinite = true) (hb : b.isFinite = true)
    (h : a.le b = true) : a.toRat ≤ b.toRat :=
  (toRat_le_iff ha hb).2 (key_le_of_le h)

/-- A key below infinity's in magnitude is that of a finite float. -/
theorem exists_isFinite_key {k : Int} (h : k.natAbs < f.infMag) :
    ∃ v : Flt f, v.isFinite = true ∧ v.key = k := by
  refine ⟨ofMag (decide (k < 0)) k.natAbs, isFinite_ofMag h, ?_⟩
  rw [ofMag_of_lt h]
  by_cases hk : k < 0 <;> simp only [hk, decide_true, decide_false, key] <;> omega

theorem evenMag_iff {a : Flt f} (h : a.isNan = false) : evenMag a = true ↔ a.key % 2 = 0 := by
  obtain ⟨s, m, rfl⟩ := eq_num_of_isNan h
  cases s <;> simp only [evenMag, key, beq_iff_eq] <;> omega

theorem overflowBound_pos (f : Fmt) : 0 < overflowBound f :=
  mul_pos (sub_pos.2 (one_lt_pow₀ one_lt_two (by omega))) (zpow_pos two_pos _)

/-- No finite float is closer to the exact value than the finite one it is rounded to. -/
theorem nearest_of_rounded {x : Rat} {r : Flt f} (h : Rounded x r) (hr : r.isFinite = true) {v : Flt f}
    (hv : v.isFinite = true) (hne : v.toRat ≠ r.toRat) :
    |r.toRat - x| < |v.toRat - x| ∨ (|r.toRat - x| = |v.toRat - x| ∧ evenMag r = true) := by
  obtain ⟨-, hx⟩ := h
  split at hx
  · exact hx.2 v hv hne
  · obtain ⟨s, m, hm, rfl⟩ := eq_num_of_isFinite hr
    simp [isInf, hm] at hx

theorem dist_le_of_rounded {x : Rat} {r : Flt f} (h : Rounded x r) (hr : r.isFinite = true) {v : Flt f}
    (hv : v.isFinite = true) : |r.toRat - x| ≤ |v.toRat - x| := by
  by_cases hne : v.toRat = r.toRat
  · rw [hne]
  · exact (nearest_of_rounded h hr hv hne).elim le_of_lt fun he => he.1.le

/-- Two floats with an even magnitude have a float between them: of two neighbours only one takes ties. -/
theorem exists_between_of_even {a b : Flt f} (ha : a.isFinite = true) (hb : b.isFinite = true)
    (hlt : b.toRat < a.toRat) (hae : evenMag a = true) (hbe : evenMag b = true) :
    ∃ v : Flt f, v.isFinite = true ∧ b.toRat < v.toRat ∧ v.toRat < a.toRat := by
  have hk := (toRat_lt_iff hb ha).1 hlt
  have hea := (evenMag_iff (isNan_of_isFinite ha)).1 hae
  have heb := (evenMag_iff (isNan_of_isFinite hb)).1 hbe
  have hka := natAbs_key_lt ha
  have hkb := natAbs_key_lt hb
  obtain ⟨v, hv, hvk⟩ := exists_isFinite_key (f := f) (k := b.key + 1) (by omega)
  exact ⟨v, hv, (toRat_lt_iff hb hv).2 (by omega), (toRat_lt_iff hv ha).2 (by omega)⟩

/-- Rounding is monotone on the finite results: were the order reversed, both exact values would lie midway
between two floats that both take ties. -/
theorem toRat_le_of_rounded {x y : Rat} {a b : Flt f} (hx : Rounded x a) (hy : Rounded y b)
    (ha : a.isFinite = true) (hb : b.isFinite = true) (hxy : x ≤ y) : a.toRat ≤ b.toRat := by
  by_contra hba
  rw [not_le] at hba
  have hda := dist_le_of_rounded hx ha hb
  have hdb := dist_le_of_rounded hy hb ha
  have hmid : ∀ z : Rat, |a.toRat - z| ≤ |b.toRat - z| → (a.toRat + b.toRat) / 2 ≤ z := fun z hz => by
    have := sq_le_sq.2 hz
    nlinarith
  have hmid' : ∀ z : Rat, |b.toRat - z| ≤ |a.toRat - z| → z ≤ (a.toRat + b.toRat) / 2 := fun z hz => by
    have := sq_le_sq.2 hz
    nlinarith
  have hxm : x = (a.toRat + b.toRat) / 2 := le_antisymm (hxy.trans (hmid' y hdb)) (hmid x hda)
  have hym : y = (a.toRat + b.toRat) / 2 := le_antisymm (hmid' y hdb) ((hmid x hda).trans hxy)
  have htie : |a.toRat - (a.toRat + b.toRat) / 2| = |b.toRat - (a.toRat + b.toRat) / 2| := by
    rw [abs_of_pos (by linarith), abs_of_neg (by linarith)]; ring
  have hae : evenMag a = true :=
    ((nearest_of_rounded hx ha hb hba.ne).resolve_left (by rw [hxm, htie]; exact lt_irrefl _)).2
  have hbe : evenMag b = true :=
    ((nearest_of_rounded hy hb ha hba.ne').resolve_left (by rw [hym, htie]; exact lt_irrefl _)).2
  obtain ⟨v, hv, hbv, hva⟩ := exists_between_of_even ha hb hba hae hbe
  have hdv := dist_le_of_rounded hx ha hv
  rw [hxm, abs_of_pos (by linarith)] at hdv
  exact (abs_lt.2 ⟨by linarith, by linarith⟩ :
    |v.toRat - (a.toRat + b.toRat) / 2| < a.toRat - (a.toRat + b.toRat) / 2).not_ge hdv

theorem key_inf (s : Bool) : (inf s : Flt f).key = if s then -(f.infMag : Int) else f.infMag := by
  cases s <;> simp [inf, ofMag, key]

theorem natAbs_key_le (a : Flt f) : a.key.natAbs ≤ f.infMag := by
  cases a with
  | nan => exact Nat.zero_le _
  | num s m => cases s <;> simp only [key] <;> omega

theorem le_inf {a : Flt f} (h : a.isNan = false) : a.le (inf false) = true := by
  have := natAbs_key_le a
  exact le_iff.2 ⟨h, rfl, by rw [key_inf, if_neg (by decide)]; omega⟩

theorem neg_inf_le {a : Flt f} (h : a.isNan = false) : (inf true : Flt f).le a = true := by
  have := natAbs_key_le a
  exact le_iff.2 ⟨rfl, h, by rw [key_inf, if_pos rfl]; omega⟩

theorem eq_inf_of_isInf {a : Flt f} (h : a.isInf = true) : a = inf a.sign := by
  cases a with
  | nan => cases h
  | num s m => rw [inf_eq, sign, Fin.ext (a := m) (b := Fin.last _) (by simpa [isInf] using h)]

/-- A number that is not finite is an infinity of its sign. -/
theorem eq_inf_of_not_isFinite {a : Flt f} (ha : a.isNan = false) (h : ¬a.isFinite = true) :
    a = inf a.sign := by
  obtain ⟨s, m, rfl⟩ := eq_num_of_isNan ha
  exact eq_inf_of_isInf (by simpa [isFinite, isInf] using h)

/-- An exact value is rounded to a finite float, or, from the overflow threshold on, to an infinity. -/
theorem finite_or_inf_of_rounded {x : Rat} {r : Flt f} (h : Rounded x r) :
    (|x| < overflowBound f ∧ r.isFinite = true) ∨
      (overflowBound f ≤ |x| ∧ r = inf (decide (x < 0))) := by
  obtain ⟨hs, hr⟩ := h
  split at hr
  case isTrue hx => exact .inl ⟨hx, hr.1⟩
  case isFalse hx =>
    rw [not_lt] at hx
    have h0 : x ≠ 0 := abs_pos.1 ((overflowBound_pos f).trans_le hx)
    exact .inr ⟨hx, hs h0 ▸ eq_inf_of_isInf hr⟩

theorem isNan_of_rounded {x : Rat} {r : Flt f} (h : Rounded x r) : r.isNan = false := by
  rcases finite_or_inf_of_rounded h with ⟨-, hr⟩ | ⟨-, rfl⟩
  · exact isNan_of_isFinite hr
  · rfl

/-- Rounding is monotone, infinities included. -/
theorem le_of_rounded {x y : Rat} {a b : Flt f} (hx : Rounded x a) (hy : Rounded y b) (hxy : x ≤ y) :
    a.le b = true := by
  rcases finite_or_inf_of_rounded hx with ⟨hxb, ha⟩ | ⟨hxb, rfl⟩
  · rcases finite_or_inf_of_rounded hy with ⟨-, hb⟩ | ⟨hyb, rfl⟩
    · exact le_of_toRat_le ha hb (toRat_le_of_rounded hx hy ha hb hxy)
    · have hy0 : ¬y < 0 := fun hneg => by
        rw [abs_of_neg hneg] at hyb
        linarith [(abs_lt.1 hxb).1]
      rw [decide_eq_false hy0]
      exact le_inf (isNan_of_isFinite ha)
  · by_cases hneg : x < 0
    · rw [decide_eq_true hneg]
      exact neg_inf_le (isNan_of_rounded hy)
    · have hyb : ¬|y| < overflowBound f := by
        rw [abs_of_nonneg (not_lt.1 hneg)] at hxb
        exact (hxb.trans (hxy.trans (le_abs_self y))).not_gt
      rcases finite_or_inf_of_rounded hy with ⟨hlt, -⟩ | ⟨-, rfl⟩
      · exact absurd hlt hyb
      · rw [decide_eq_false hneg, decide_eq_false (by linarith)]
        exact le_inf rfl

/-- A value of the format is rounded to itself. -/
theorem rounded_self (hf : IsFormat f) {a : Flt f} (h : a.isFinite = true) : Rounded a.toRat a := by
  have hlt : |a.toRat| < overflowBound f := by exact_mod_cast abs_toRat_lt_overflowBound hf h
  refine ⟨fun h0 => ?_, ?_⟩
  · obtain ⟨s, m, hm, rfl⟩ := eq_num_of_isFinite h
    exact sign_of_signed (by positivity) (toRat_num_eq hm) h0
  · rw [if_pos hlt]
    refine ⟨h, fun v _ hne => .inl ?_⟩
    rw [sub_self, abs_zero]
    exact abs_pos.2 (sub_ne_zero.2 hne)

theorem rounded_sub (hf : IsFormat f) {a b : Flt f} (ha : a.isFinite = true) (hb : b.isFinite = true) :
    Rounded (a.toRat - b.toRat) (a.sub b) := by
  rw [sub_eq_add_neg, ← toRat_neg]
  exact rounded_add hf ha (by rwa [isFinite_neg])

theorem rounded_ofInt (hf : IsFormat f) (i : Int) : Rounded (i : Rat) (ofInt i : Flt f) := by
  have hi : (i : Rat) = (if decide (i < 0) then -1 else 1) * (i.natAbs * 2 ^ (0 : Int)) := by
    rcases lt_or_ge i 0 with hlt | hge
    · simp [hlt, abs_of_neg]
    · simp [hge, abs_of_nonneg]
  rw [hi]
  exact rounded_round_exact hf _ _ _

theorem natAbs_key_num (s : Bool) (m : Fin (f.infMag + 1)) : (num s m : Flt f).key.natAbs = m.val := by
  cases s <;> simp only [key] <;> omega

/-- A number between finite bounds is finite. -/
theorem isFinite_of_le_le {a lo hi : Flt f} (hlo : lo.isFinite = true) (hhi : hi.isFinite = true)
    (hl : lo.le a = true) (hr : a.le hi = true) : a.isFinite = true := by
  obtain ⟨ha, -, hk⟩ := le_iff.1 hr
  obtain ⟨-, -, hk'⟩ := le_iff.1 hl
  have h1 := natAbs_key_lt hlo
  have h2 := natAbs_key_lt hhi
  obtain ⟨s, m, rfl⟩ := eq_num_of_isNan ha
  have hm := natAbs_key_num s m
  rw [isFinite, bne_iff_ne]
  omega

theorem convert_le_convert (hg : IsFormat g) {a b : Flt f} (ha : a.isFinite = true)
    (hb : b.isFinite = true) (h : a.le b = true) : (a.convert : Flt g).le b.convert = true :=
  le_of_rounded (rounded_convert hg ha) (rounded_convert hg hb) (toRat_le_of_le ha hb h)

protected theorem sub_le_sub (hf : IsFormat f) {a b c d : Flt f} (ha : a.isFinite = true)
    (hb : b.isFinite = true) (hc : c.isFinite = true) (hd : d.isFinite = true) (hab : a.le b = true) (hcd : c.le d = true) :
    (a.sub d).le (b.sub c) = true :=
  le_of_rounded (rounded_sub hf ha hd) (rounded_sub hf hb hc)
    (sub_le_sub (toRat_le_of_le ha hb hab) (toRat_le_of_le hc hd hcd))

end Sys2Proof.Flt
end

section
/-! Bounded arithmetic: a float from 0 to a finite bound, under operations that keep it there. The bound of a
result is the operation on the bounds, so that a closed computation decides whether it is finite. -/

namespace Sys2Proof.Flt

open Machine

variable {f : Fmt}

theorem isFinite_zero (hf : IsFormat f) : (Const.zero : Flt f).isFinite = true :=
  isFinite_ofMag (Nat.pos_of_ne_zero hf.infMag_ne_zero)

theorem toRat_zero (hf : IsFormat f) : (Const.zero : Flt f).toRat = 0 := by
  rw [Const.zero, zero, toRat_ofMag (Nat.pos_of_ne_zero hf.infMag_ne_zero), units_zero]
  simp

theorem toRat_nonneg (hf : IsFormat f) {a : Flt f} (ha : a.isFinite = true)
    (h : Const.zero.le a = true) : 0 ≤ a.toRat :=
  toRat_zero hf ▸ toRat_le_of_le (isFinite_zero hf) ha h

theorem zero_le_of_rounded (hf : IsFormat f) {x : Rat} {r : Flt f} (h : Rounded x r) (hx : 0 ≤ x) :
    Const.zero.le r = true :=
  le_of_rounded (rounded_self hf (isFinite_zero hf)) h ((toRat_zero hf).trans_le hx)

/-- A finite number above 0 is no zero and has a positive value. -/
theorem toRat_pos (hf : IsFormat f) {a : Flt f} (ha : a.isFinite = true)
    (h : Const.zero.lt a = true) : 0 < a.toRat :=
  toRat_zero hf ▸ (toRat_lt_iff (isFinite_zero hf) ha).2 (key_lt_of_lt h)

theorem isZero_of_pos {a : Flt f} (h : Const.zero.lt a = true) : a.isZero = false := by
  obtain ⟨-, ha, hk⟩ := lt_iff.1 h
  obtain ⟨s, m, rfl⟩ := eq_num_of_isNan ha
  have hz : (Const.zero : Flt f).key = 0 := by simp [Const.zero, zero_eq, key]
  have hm := natAbs_key_num s m
  rw [isZero, beq_eq_false_iff_ne]
  omega

theorem mul_le_mul_of_zero_le (hf : IsFormat f) {a b c : Flt f} (ha : a.isFinite = true)
    (hb : b.isFinite = true) (hc : c.isFinite = true) (hc0 : Const.zero.le c = true)
    (h : a.le b = true) : (c.mul a).le (c.mul b) = true :=
  le_of_rounded (rounded_mul hf hc ha) (rounded_mul hf hc hb)
    (mul_le_mul_of_nonneg_left (toRat_le_of_le ha hb h) (toRat_nonneg hf hc hc0))

/-- `a` is a number from 0 to `B`. -/
def Within (B a : Flt f) : Prop := Const.zero.le a = true ∧ a.le B = true

section
variable {A B a b : Flt f}

theorem Within.isFinite (hf : IsFormat f) (h : Within B a) (hB : B.isFinite = true) :
    a.isFinite = true :=
  isFinite_of_le_le (isFinite_zero hf) hB h.1 h.2

theorem Within.mono (h : Within A a) (hAB : A.le B = true) : Within B a := ⟨h.1, Flt.le_trans h.2 hAB⟩

theorem Within.mul (hf : IsFormat f) (ha : Within A a) (hb : Within B b) (hA : A.isFinite = true)
    (hB : B.isFinite = true) : Within (A.mul B) (a.mul b) := by
  have haf := ha.isFinite hf hA
  have hbf := hb.isFinite hf hB
  have ha0 := toRat_nonneg hf haf ha.1
  have hb0 := toRat_nonneg hf hbf hb.1
  have haA := toRat_le_of_le haf hA ha.2
  exact ⟨zero_le_of_rounded hf (rounded_mul hf haf hbf) (mul_nonneg ha0 hb0),
    le_of_rounded (rounded_mul hf haf hbf) (rounded_mul hf hA hB)
      (mul_le_mul haA (toRat_le_of_le hbf hB hb.2) hb0 (ha0.trans haA))⟩

theorem Within.add (hf : IsFormat f) (ha : Within A a) (hb : Within B b) (hA : A.isFinite = true)
    (hB : B.isFinite = true) : Within (A.add B) (a.add b) := by
  have haf := ha.isFinite hf hA
  have hbf := hb.isFinite hf hB
  exact ⟨zero_le_of_rounded hf (rounded_add hf haf hbf)
      (add_nonneg (toRat_nonneg hf haf ha.1) (toRat_nonneg hf hbf hb.1)),
    le_of_rounded (rounded_add hf haf hbf) (rounded_add hf hA hB)
      (add_le_add (toRat_le_of_le haf hA ha.2) (toRat_le_of_le hbf hB hb.2))⟩

theorem Within.div (hf : IsFormat f) (ha : Within A a) (hA : A.isFinite = true) {c : Flt f}
    (hc : c.isFinite = true) (hc0 : Const.zero.lt c = true) : Within (A.div c) (a.div c) := by
  have haf := ha.isFinite hf hA
  have hz := isZero_of_pos hc0
  have hcp := (toRat_pos hf hc hc0).le
  exact ⟨zero_le_of_rounded hf (rounded_div hf haf hc hz)
      (div_nonneg (toRat_nonneg hf haf ha.1) hcp),
    le_of_rounded (rounded_div hf haf hc hz) (rounded_div hf hA hc hz)
      (div_le_div_of_nonneg_right (toRat_le_of_le haf hA ha.2) hcp)⟩

/-- The distance to the bound is a number from 0 to the bound. -/
theorem Within.compl (hf : IsFormat f) (h : Within B a) (hB : B.isFinite = true) :
    Within B (B.sub a) := by
  have haf := h.isFinite hf hB
  have hr := rounded_sub hf hB haf
  have h0 := toRat_nonneg hf haf h.1
  have h1 := toRat_le_of_le haf hB h.2
  exact ⟨zero_le_of_rounded hf hr (by linarith), le_of_rounded hr (rounded_self hf hB) (by linarith)⟩

theorem Within.convert {g : Fmt} (hf : IsFormat f) (hg : IsFormat g) (h : Within B a)
    (hB : B.isFinite = true) : Within (B.convert : Flt g) a.convert := by
  have haf := h.isFinite hf hB
  have h0 := convert_le_convert hg (isFinite_zero hf) haf h.1
  rw [Const.zero, convert_zero hf] at h0
  exact ⟨h0, convert_le_convert hg haf hB h.2⟩

/-- A clamped value is a number from 0 to the upper bound, if the lower bound is. -/
theorem within_clamp {v lo hi : Flt f} (hlo : Const.zero.le lo = true) (h : lo.le hi = true) :
    Within hi (v.clamp lo hi) := by
  obtain ⟨hl, hh, hk⟩ := le_iff.1 h
  obtain ⟨h1, h2⟩ := clamp_mem (v := v) hl hh hk
  exact ⟨Flt.le_trans hlo h1, h2⟩

end

/-- Rounding at most doubles a value and keeps its sign, because 0 is a float. -/
theorem abs_sub_le_of_rounded (hf : IsFormat f) {x : Rat} {r : Flt f} (h : Rounded x r)
    (hr : r.isFinite = true) : |r.toRat - x| ≤ |x| := by
  have := dist_le_of_rounded h hr (isFinite_zero hf)
  rwa [toRat_zero hf, zero_sub, abs_neg] at this

theorem abs_toRat_lt (hf : IsFormat f) {a : Flt f} (h : a.isFinite = true) :
    |a.toRat| < overflowBound f := by
  exact_mod_cast abs_toRat_lt_overflowBound hf h

end Sys2Proof.Flt
end

section
/-! The smoother (43_smoother.md R230) on numbers from 0 up: a step ends between the value and the target,
because the rounded difference is at most twice the exact one and SMOOTH_K is below a quarter. -/

namespace Sys2Proof.Machine

theorem isFormat_b32 : IsFormat Fmt.b32 := .inl rfl

theorem isFormat_b64 : IsFormat Fmt.b64 := .inr rfl

theorem smoothK_isFinite : Const.smoothK.isFinite = true := by decide

theorem smoothK_bounds : 0 ≤ Const.smoothK.toRat ∧ Const.smoothK.toRat ≤ 1 / 50 := by
  have h : Rounded (1 / 100) Const.smoothK := by
    simpa [Const.smoothK, Flt.ofDec] using Flt.rounded_ofQuot isFormat_b32 false 1 (b := 100) (by decide) 0
  have hd := Flt.abs_sub_le_of_rounded isFormat_b32 h smoothK_isFinite
  rw [abs_of_pos (by norm_num : (0 : Rat) < 1 / 100), abs_le] at hd
  constructor <;> linarith

/-- The exact step that the smoother adds lies between 0 and the whole way to the target. -/
theorem smooth_increment {c t : F32} (hc : c.isFinite = true) (ht : t.isFinite = true)
    (hd : |t.toRat - c.toRat| < overflowBound Fmt.b32) :
    (Const.smoothK.mul (t.sub c)).isFinite = true ∧
      (c.toRat ≤ t.toRat → c.toRat ≤ c.toRat + (Const.smoothK.mul (t.sub c)).toRat ∧
        c.toRat + (Const.smoothK.mul (t.sub c)).toRat ≤ t.toRat) ∧
      (t.toRat ≤ c.toRat → t.toRat ≤ c.toRat + (Const.smoothK.mul (t.sub c)).toRat ∧
        c.toRat + (Const.smoothK.mul (t.sub c)).toRat ≤ c.toRat) := by
  obtain ⟨hk0, hk1⟩ := smoothK_bounds
  have hsub := Flt.rounded_sub isFormat_b32 ht hc
  have hdf := Flt.isFinite_of_rounded hsub hd
  have hmul := Flt.rounded_mul isFormat_b32 smoothK_isFinite hdf
  have hsmall : |Const.smoothK.toRat * (t.sub c).toRat| < overflowBound Fmt.b32 := by
    refine lt_of_le_of_lt ?_ (Flt.abs_toRat_lt isFormat_b32 hdf)
    rw [abs_mul, abs_of_nonneg hk0]
    exact mul_le_of_le_one_left (abs_nonneg _) (by linarith)
  have hpf := Flt.isFinite_of_rounded hmul hsmall
  have hd1 := Flt.abs_sub_le_of_rounded isFormat_b32 hsub hdf
  have hp1 := Flt.abs_sub_le_of_rounded isFormat_b32 hmul hpf
  generalize (Const.smoothK.mul (t.sub c)).toRat = p at hp1 ⊢
  generalize (t.sub c).toRat = d at hd1 hp1
  generalize Const.smoothK.toRat = k at hk0 hk1 hp1
  refine ⟨hpf, fun h => ?_, fun h => ?_⟩
  · rw [abs_of_nonneg (by linarith : 0 ≤ t.toRat - c.toRat), abs_le] at hd1
    rw [abs_of_nonneg (mul_nonneg hk0 (by linarith)), abs_le] at hp1
    constructor <;> nlinarith
  · rw [abs_of_nonpos (by linarith : t.toRat - c.toRat ≤ 0), abs_le] at hd1
    rw [abs_of_nonpos (mul_nonpos_of_nonneg_of_nonpos hk0 (by linarith)), abs_le] at hp1
    constructor <;> nlinarith

/-- A range of numbers from 0 up holds every smoothing step between two of its members. -/
theorem smooth_mem {c t lo hi : F32} (h0 : Const.zero.le lo = true) (hhi : hi.isFinite = true)
    (hc : lo.le c = true ∧ c.le hi = true) (ht : lo.le t = true ∧ t.le hi = true) :
    lo.le (smooth c t) = true ∧ (smooth c t).le hi = true := by
  have hcw : Flt.Within hi c := ⟨Flt.le_trans h0 hc.1, hc.2⟩
  have htw : Flt.Within hi t := ⟨Flt.le_trans h0 ht.1, ht.2⟩
  have hcf := hcw.isFinite isFormat_b32 hhi
  have htf := htw.isFinite isFormat_b32 hhi
  have hlof : lo.isFinite = true :=
    Flt.isFinite_of_le_le (Flt.isFinite_zero isFormat_b32) hcf h0 hc.1
  have hd : |t.toRat - c.toRat| < overflowBound Fmt.b32 :=
    abs_sub_lt_of_nonneg_of_lt (Flt.toRat_nonneg isFormat_b32 htf htw.1)
      ((le_abs_self _).trans_lt (Flt.abs_toRat_lt isFormat_b32 htf))
      (Flt.toRat_nonneg isFormat_b32 hcf hcw.1)
      ((le_abs_self _).trans_lt (Flt.abs_toRat_lt isFormat_b32 hcf))
  obtain ⟨hpf, hup, hdown⟩ := smooth_increment hcf htf hd
  have hadd := Flt.rounded_add isFormat_b32 hcf hpf
  have hlc := Flt.toRat_le_of_le hlof hcf hc.1
  have hch := Flt.toRat_le_of_le hcf hhi hc.2
  have hlt := Flt.toRat_le_of_le hlof htf ht.1
  have hth := Flt.toRat_le_of_le htf hhi ht.2
  have hmem : lo.toRat ≤ c.toRat + (Const.smoothK.mul (t.sub c)).toRat ∧
      c.toRat + (Const.smoothK.mul (t.sub c)).toRat ≤ hi.toRat := by
    rcases le_total c.toRat t.toRat with h | h
    · exact ⟨hlc.trans (hup h).1, (hup h).2.trans hth⟩
    · exact ⟨hlt.trans (hdown h).1, (hdown h).2.trans hch⟩
  unfold smooth
  simp only
  split
  · exact ht
  · exact ⟨Flt.le_of_rounded (Flt.rounded_self isFormat_b32 hlof) hadd hmem.1,
      Flt.le_of_rounded hadd (Flt.rounded_self isFormat_b32 hhi) hmem.2⟩

end Sys2Proof.Machine
end

section
/-! The high-pass and low-pass sections (42_hplp.md): `process` moves p, q and g by the smoother only, and
their targets lie in the ranges of 10_state.md R63. -/

namespace Sys2Proof.Machine

theorem Hplp.nanGuard_params (F : Hplp) :
    F.nanGuard.p = F.p ∧ F.nanGuard.q = F.q ∧ F.nanGuard.g = F.g := by
  unfold Hplp.nanGuard
  split <;> exact ⟨rfl, rfl, rfl⟩

theorem Hplp.compute_params (x : HplpKind) (F : Hplp) (w : List F32) :
    (F.compute x w).1.p = F.p ∧ (F.compute x w).1.q = F.q ∧ (F.compute x w).1.g = F.g := by
  unfold Hplp.compute
  split
  · exact ⟨rfl, rfl, rfl⟩
  · exact scanBlock_state (I := fun G : Hplp => G.p = F.p ∧ G.q = F.q ∧ G.g = F.g)
      (fun _ _ h => h) w F ⟨rfl, rfl, rfl⟩

/-- A run of a section smooths p, q and g once and leaves them alone otherwise (R204 to R208). -/
theorem Hplp.run_params (P : Params) (x : HplpKind) (r : HplpControls) (rate : F32) (F : Hplp)
    (w : List F32) :
    (F.run P x r rate w).1.p = smooth F.p (hplpTargets P x r rate).1 ∧
      (F.run P x r rate w).1.q = smooth F.q (hplpTargets P x r rate).2.1 ∧
      (F.run P x r rate w).1.g = smooth F.g (hplpTargets P x r rate).2.2 := by
  obtain ⟨hp, hq, hg⟩ := Hplp.compute_params x (F.interpolate P x r rate) w
  obtain ⟨hp', hq', hg'⟩ := F.nanGuard_params
  exact ⟨hp.trans (congrArg (smooth · _) hp'), hq.trans (congrArg (smooth · _) hq'),
    hg.trans (congrArg (smooth · _) hg')⟩

/-- A sub-block runs each of the two sections once. -/
theorem Chan.subblock_hplp {P : Params} {r : Controls} {rate : F32} {x y : Chan} {d w : List F32}
    {b : Bool} (h : x.subblock P r rate d = some (y, w, b)) :
    ∃ w1 w2, y.hp = (x.hp.run P .hp r.hp rate w1).1 ∧ y.lp = (x.lp.run P .lp r.lp rate w2).1 := by
  unfold Chan.subblock at h
  simp only at h
  split at h
  · cases h
  · simp only [Option.some.injEq, Prod.mk.injEq] at h
    obtain ⟨rfl, -, -⟩ := h
    exact ⟨_, _, rfl, rfl⟩

/-- What every run of a section keeps, every sub-block keeps of both sections. -/
theorem subblock_keeps_hplp {P : Params} {J : Hplp → Prop}
    (hJ : ∀ F x r rate w, J F → J (F.run P x r rate w).1) :
    SubblockKeeps P fun x => J x.hp ∧ J x.lp := by
  intro r rate x d y w b hx hy
  obtain ⟨w1, w2, hhp, hlp⟩ := Chan.subblock_hplp hy
  exact ⟨hhp ▸ hJ _ _ _ _ _ hx.1, hlp ▸ hJ _ _ _ _ _ hx.2⟩

theorem within_resLp {r : F32} (h : Flt.Within Const.resMax r) :
    Flt.Within (Const.resLp Const.resMax) (Const.resLp r) :=
  (h.mul isFormat_b32 h (by decide) (by decide)).div isFormat_b32 (by decide) (by decide) (by decide)

/-- The high-pass's curve stays below the greatest resonance of the low-pass: its factor `2.8 - r` is at
most 2.8. -/
theorem within_resHp {r : F32} (h : Flt.Within Const.resMax r) :
    Flt.Within (Const.resLp Const.resMax) (Const.resHp r) := by
  have htwice : Const.resTwice.isFinite = true := by decide
  have hfactor : Flt.Within Const.resTwice (Const.resTwice.sub r) :=
    (h.mono (by decide)).compl isFormat_b32 htwice
  exact ((h.mul isFormat_b32 hfactor (by decide) htwice).div isFormat_b32 (by decide) htwice
    (by decide)).mono (by decide)

theorem within_curve (x : HplpKind) {r : F32} (h : Flt.Within Const.resMax r) :
    Flt.Within (Const.resLp Const.resMax) (x.curve r) := by
  cases x with
  | hp => exact within_resHp h
  | lp => exact within_resLp h

/-- The targets of the resonance and of the engage factor lie in the ranges (42_hplp.md R202, R203). -/
theorem within_hplpTargets (P : Params) (x : HplpKind) (r : HplpControls) (rate : F32) :
    Flt.Within (Const.resLp Const.resMax) (hplpTargets P x r rate).2.1 ∧
      Flt.Within Const.one (hplpTargets P x r rate).2.2 := by
  have hone : Flt.Within (Const.one : F32) Const.one := ⟨by decide, by decide⟩
  unfold hplpTargets
  split
  · exact ⟨within_curve x (Flt.within_clamp (by decide) (by decide)), hone⟩
  · exact ⟨⟨by decide, by decide⟩, by decide, by decide⟩

theorem Hplp.inRange_iff (F : Hplp) :
    F.InRange ↔ Flt.Within Const.one F.g ∧ Flt.Within (Const.resLp Const.resMax) F.q :=
  and_assoc.symm

theorem Hplp.InRange.run {F : Hplp} (h : F.InRange) (P : Params) (x : HplpKind) (r : HplpControls)
    (rate : F32) (w : List F32) : (F.run P x r rate w).1.InRange := by
  obtain ⟨-, hq, hg⟩ := F.run_params P x r rate w
  obtain ⟨hqt, hgt⟩ := within_hplpTargets P x r rate
  obtain ⟨hgF, hqF⟩ := F.inRange_iff.1 h
  rw [Hplp.inRange_iff, hq, hg]
  exact ⟨smooth_mem (by decide) (by decide) hgF hgt, smooth_mem (by decide) (by decide) hqF hqt⟩

theorem Hplp.initial_inRange : Hplp.initial.InRange := ⟨by decide, by decide, by decide, by decide⟩

/-- Every step keeps the engage factors and the resonances in their ranges. -/
theorem step_keeps_sectionsInRange {s t : State} (hs : s.SectionsInRange) (h : step s = .next t) :
    t.SectionsInRange :=
  (subblock_keeps_hplp fun _ x r rate w hF => hF.run Config.params x r rate w).step
    (fun _ _ => ⟨Hplp.initial_inRange, Hplp.initial_inRange⟩) hs h

/-- The angle of a frequency ratio, which the pole's decay takes negated (42_hplp.md R202). -/
def poleAngle (fr : F32) : F64 := Const.twoPi.mul fr.to64

/-- A frequency ratio as the clamp leaves it (00_scope.md R7). -/
def IsRatio (fr : F32) : Prop := Const.frMin.le fr = true ∧ fr.le Const.frMax = true

theorem isRatio_freqRatio (freq : Word) (rate : F32) : IsRatio (freqRatio freq rate) :=
  Flt.clamp_mem (by decide) (by decide) (by decide)

theorem isRatio_frMin : IsRatio Const.frMin := ⟨by decide, by decide⟩

theorem IsRatio.isFinite {fr : F32} (h : IsRatio fr) :
    fr.isFinite = true ∧ fr.to64.isFinite = true := by
  have hlo : Const.frMin.isFinite = true := by decide
  have hhi : Const.frMax.isFinite = true := by decide
  have hf := Flt.isFinite_of_le_le hlo hhi h.1 h.2
  exact ⟨hf, Flt.isFinite_of_le_le (lo := Const.frMin.to64) (hi := Const.frMax.to64) (by decide)
    (by decide) (Flt.convert_le_convert isFormat_b64 hlo hf h.1)
    (Flt.convert_le_convert isFormat_b64 hf hhi h.2)⟩

/-- The angle grows with the ratio. -/
theorem poleAngle_le {a b : F32} (ha : IsRatio a) (hb : IsRatio b) (hab : a.le b = true) :
    (poleAngle a).le (poleAngle b) = true :=
  Flt.mul_le_mul_of_zero_le isFormat_b64 ha.isFinite.2 hb.isFinite.2 (by decide) (by decide)
    (Flt.convert_le_convert isFormat_b64 ha.isFinite.1 hb.isFinite.1 hab)

theorem neg_poleAngle_le_zero {fr : F32} (h : IsRatio fr) :
    (poleAngle fr).neg.le Const.zero = true := by
  have h0 : Const.zero.le (poleAngle fr) = true :=
    Flt.le_trans (by decide) (poleAngle_le isRatio_frMin h h.1)
  exact Flt.le_trans (Flt.neg_le_neg h0) (by decide)

theorem one_isFinite : (Const.one : F64).isFinite = true := by decide

theorem one_to32 : (Const.one : F64).to32 = Const.one := by decide

/-- What remains of the exponential after its decay: a number from 0 to 1. -/
theorem within_decay {P : Params} (hE : ExpDecays P.num) {fr : F32} (h : IsRatio fr) :
    Flt.Within Const.one (P.num.exp (poleAngle fr).neg) :=
  hE.unit _ (neg_poleAngle_le_zero h)

/-- The pole coefficient of a ratio is a number from 0 to 1. -/
theorem within_poleOf {P : Params} (hE : ExpDecays P.num) {fr : F32} (h : IsRatio fr) :
    Flt.Within Const.one (poleOf P fr) :=
  one_to32 ▸ ((within_decay hE h).compl isFormat_b64 one_isFinite).convert isFormat_b64 isFormat_b32
    one_isFinite

/-- The pole coefficient grows with the ratio, because the exponential falls. -/
theorem poleOf_le {P : Params} (hE : ExpDecays P.num) {a b : F32} (ha : IsRatio a) (hb : IsRatio b)
    (hab : a.le b = true) : (poleOf P a).le (poleOf P b) = true := by
  have hwa := within_decay hE ha
  have hwb := within_decay hE hb
  have hfall : (P.num.exp (poleAngle b).neg).le (P.num.exp (poleAngle a).neg) = true :=
    hE.mono _ _ (Flt.neg_le_neg (poleAngle_le ha hb hab)) (neg_poleAngle_le_zero ha)
  have hrefl : (Const.one : F64).le Const.one = true := by decide
  exact Flt.convert_le_convert isFormat_b32
    ((hwa.compl isFormat_b64 one_isFinite).isFinite isFormat_b64 one_isFinite)
    ((hwb.compl isFormat_b64 one_isFinite).isFinite isFormat_b64 one_isFinite)
    (Flt.sub_le_sub isFormat_b64 one_isFinite one_isFinite (hwb.isFinite isFormat_b64 one_isFinite)
      (hwa.isFinite isFormat_b64 one_isFinite) hrefl hfall)

/-- The target of the pole coefficient lies in its range (42_hplp.md R202, R203). -/
theorem poleTarget_mem {P : Params} (hE : ExpDecays P.num) (x : HplpKind) (r : HplpControls)
    (rate : F32) : (poleOf P Const.frMin).le (hplpTargets P x r rate).1 = true ∧
      (hplpTargets P x r rate).1.le Const.one = true := by
  have hone : (Const.one : F32).le Const.one = true := by decide
  have hmin := within_poleOf hE isRatio_frMin
  unfold hplpTargets
  split
  · have hfr := isRatio_freqRatio r.freq rate
    exact ⟨poleOf_le hE isRatio_frMin hfr hfr.1, (within_poleOf hE hfr).2⟩
  · exact ⟨hmin.2, hone⟩

theorem Hplp.PoleInRange.run {P : Params} (hE : ExpDecays P.num) {F : Hplp} (h : F.PoleInRange P)
    (x : HplpKind) (r : HplpControls) (rate : F32) (w : List F32) :
    (F.run P x r rate w).1.PoleInRange P := by
  obtain ⟨hp, -, -⟩ := F.run_params P x r rate w
  rw [Hplp.PoleInRange, hp]
  exact smooth_mem (within_poleOf hE isRatio_frMin).1 (by decide) h (poleTarget_mem hE x r rate)

theorem Hplp.initial_poleInRange {P : Params} (hE : ExpDecays P.num) :
    Hplp.initial.PoleInRange P :=
  ⟨(within_poleOf hE isRatio_frMin).2, by decide⟩

theorem initialise_polesInRange {P : Params} (hE : ExpDecays P.num) (n : Nat) (s : State) :
    (initialise P n s).PolesInRange P := by
  intro _ x hx
  rw [initialise_ch] at hx
  rw [List.eq_of_mem_replicate hx]
  exact ⟨Hplp.initial_poleInRange hE, Hplp.initial_poleInRange hE⟩

theorem processSamples_polesInRange {P : Params} (hE : ExpDecays P.num) (n : Nat) {s : State}
    (h : s.PolesInRange P) : (processSamples P n s).PolesInRange P := by
  intro hi
  rw [(processSamples_same P n s).initDone] at hi
  exact (subblock_keeps_hplp fun _ x r rate w hF => hF.run hE x r rate w).processSamples n (h hi)

theorem step_keeps_polesInRange (hE : ExpDecays Config.params.num) {s t : State}
    (hs : s.PolesInRange Config.params) (h : step s = .next t) : t.PolesInRange Config.params := by
  rcases step_ch_cases h with ⟨hch, hi⟩ | ⟨nch, rfl⟩ | ⟨n, -, rfl⟩
  · intro ht
    rw [hch]
    exact hs (hi ▸ ht)
  · exact initialise_polesInRange hE _ _
  · exact processSamples_polesInRange hE n hs

end Sys2Proof.Machine
end

section
open Sys2Proof Sys2Proof.Machine

/-- Settles O60: smoothing from a range towards a target in it stays in it, and the targets are in theirs
because rounding is monotone. -/
theorem everyStepKeepsSectionsInRange : Obligations.EveryStepKeepsSectionsInRange := by
  unfold Obligations.EveryStepKeepsSectionsInRange
  exact ⟨fun _ _ => step_keeps_sectionsInRange,
    fun _ hE s n => ⟨initialise_polesInRange hE n s, processSamples_polesInRange hE n⟩,
    fun hE _ _ => step_keeps_polesInRange hE⟩
end

section
/-! Host accesses to a mapped word (20_memory.md R85): the step of a read and of a write that stores, and
what every word reads as after a word was stored. -/

namespace Sys2Proof.Machine

/-- No mapped word shows the host's accesses still to come. -/
theorem readTarget_bus (P : Params) (s : State) (rest : List BusAccess) (t : Target) :
    State.readTarget P { s with bus := rest } t = s.readTarget P t := by
  cases t with
  | iface r => cases r <;> rfl
  | _ => rfl

/-- A read of a mapped word answers it and does nothing else. -/
theorem step_read {s : State} {a : Word} {rest : List BusAccess} {t : Target}
    (hb : s.bus = .read a :: rest) (ht : t.Mapped) (ha : t.addr = a.toNat) :
    step s = .next { s with bus := rest, rdata := s.readTarget Config.params t } := by
  have hr : busRead Config.params a { s with bus := rest } =
      { s with bus := rest, rdata := State.readTarget Config.params { s with bus := rest } t } := by
    rw [busRead, locate_of_mapped ht ha]
  rw [step, hb]
  exact congrArg Host.Outcome.next (hr.trans (by rw [readTarget_bus]))

/-- A write to a writable mapped word other than CMD stores. -/
theorem step_write {s : State} {a v : Word} {rest : List BusAccess} {t : Target}
    (hb : s.bus = .write a v :: rest) (ht : t.Mapped) (ha : t.addr = a.toNat)
    (hro : t.readOnly = false) (hcmd : t ≠ .iface .cmd) :
    step s = .next (State.writeTarget { s with bus := rest } v t) := by
  have hl := locate_of_mapped ht ha
  have hw : busWrite a v { s with bus := rest } = State.writeTarget { s with bus := rest } v t := by
    rw [busWrite, hl]
    simp [hro]
  have hc : isCmd a = false := (isCmd_of_locate hl).trans (decide_eq_false hcmd)
  rw [step, hb]
  simp only [hc]
  exact congrArg Host.Outcome.next hw

/-- The bit an enable register keeps of a written word (10_state.md R43). -/
theorem enWord_getLsbD (v : Word) : enWord (v.getLsbD 0) = v &&& 1 := by
  have h := BitVec.and_one_eq_setWidth_ofBool_getLsbD (x := v)
  rw [show (1 : Word) = 1#32 from rfl, h]
  cases v.getLsbD 0 <;> rfl

theorem Controls.band_setBand {r : Controls} {i : Nat} (hi : i < r.bands.length) (b : BandControls)
    (j : Nat) : (r.setBand i b).band j = if j = i then b else r.band j := by
  by_cases h : j = i
  · subst h
    simp [Controls.band, Controls.setBand, List.getD_eq_getElem?_getD, hi]
  · simp [Controls.band, Controls.setBand, List.getD_eq_getElem?_getD, h, Ne.symm h]

/-- A parameter register reads as written, an enable as its bit 0 (10_state.md R43, R44). -/
theorem Controls.read_write_same {r : Controls} (hr : r.bands.length = Config.nBands) {x : CtlReg}
    (hx : (Target.ctl x).Mapped) (v : Word) :
    (r.write v x).read x = if x.isEnable then v &&& 1 else v := by
  cases x with
  | bandEn i =>
    rw [Controls.write, Controls.read, Controls.band_setBand (hr ▸ hx), if_pos rfl]
    exact enWord_getLsbD v
  | bandFreq i | bandBw i | bandGainDb i =>
    rw [Controls.write, Controls.read, Controls.band_setBand (hr ▸ hx), if_pos rfl]
    rfl
  | globalEn | hpEn | lpEn | lsEn | hsEn | anPhold => exact enWord_getLsbD v
  | _ => rfl

/-- Every other parameter register reads as before. -/
theorem Controls.read_write_other {r : Controls} (hr : r.bands.length = Config.nBands) {x y : CtlReg}
    (hx : (Target.ctl x).Mapped) (v : Word) (h : y ≠ x) : (r.write v x).read y = r.read y := by
  cases x with
  | bandEn i | bandFreq i | bandBw i | bandGainDb i =>
    have hset := Controls.band_setBand (r := r) (i := i) (hr ▸ hx)
    cases y with
    | bandEn j | bandFreq j | bandBw j | bandGainDb j =>
      rw [Controls.write, Controls.read, hset]
      split <;> simp_all [Controls.read]
    | _ => rfl
  | _ =>
    cases y with
    | bandEn j | bandFreq j | bandBw j | bandGainDb j => rfl
    | _ => simp only [Controls.write, Controls.read, ne_eq, not_true_eq_false] at h ⊢

/-- Two different words of AUDIO do not overlap (20_memory.md R86). -/
theorem audioAddr_disjoint {c j d k : Nat} (hj : j < Config.bufMax) (hk : k < Config.bufMax)
    (h : ¬(c = d ∧ j = k)) :
    audioAddr c j + 4 ≤ audioAddr d k ∨ audioAddr d k + 4 ≤ audioAddr c j := by
  simp only [Config.bufMax, audioAddr] at *
  omega

/-- The bytes of a stored word lie little-endian (20_memory.md R87). -/
theorem Memory.byteAt_writeWord_same (P : Params) (m : Memory) (a : Nat) (v : Word) {k : Nat}
    (hk : k < 4) : (m.writeWord a v).byteAt P (a + k) = v.extractLsb' (8 * k) 8 := by
  match k, hk with
  | 0, _ | 1, _ | 2, _ | 3, _ => simp [Memory.byteAt_writeWord]

theorem Target.Stores.step {s : State} {a v : Word} {rest : List BusAccess} {t : Target}
    (hst : t.Stores) (hb : s.bus = .write a v :: rest) (ht : t.Mapped) (ha : t.addr = a.toNat) :
    Machine.step s = .next (State.writeTarget { s with bus := rest } v t) := by
  rcases hst with rfl | ⟨r, rfl⟩ | ⟨c, j, rfl⟩ <;> exact step_write hb ht ha rfl nofun

/-- What a word reads as after `v` was stored to it: an enable register keeps bit 0 only. -/
def Target.stored (v : Word) : Target → Word
  | .ctl r => if r.isEnable then v &&& 1 else v
  | _ => v

/-- The stored word reads as written, and every other mapped word reads as before. -/
theorem readTarget_writeTarget (P : Params) {s : State} (hs : s.ctl.bands.length = Config.nBands)
    (v : Word) {t u : Target} (hst : t.Stores) (ht : t.Mapped) (hu : u.Mapped) :
    (s.writeTarget v t).readTarget P u = if u = t then t.stored v else s.readTarget P u := by
  split
  case isTrue h =>
    subst h
    rcases hst with rfl | ⟨r, rfl⟩ | ⟨c, j, rfl⟩
    · rfl
    · exact Controls.read_write_same hs ht v
    · exact Memory.wordAt_writeWord_same P s.mem _ v
  case isFalse h =>
    rcases hst with rfl | ⟨r, rfl⟩ | ⟨c, j, rfl⟩
    · cases u with
      | iface q =>
        cases q with
        | arg0 => exact absurd rfl h
        | _ => rfl
      | _ => rfl
    · cases u with
      | iface q => cases q <;> rfl
      | ctl q => exact Controls.read_write_other hs ht v fun he => h (by rw [he])
      | _ => rfl
    · cases u with
      | iface q => cases q <;> rfl
      | audio d k =>
        refine Memory.wordAt_writeWord_other P s.mem v (audioAddr_disjoint hu.2 ht.2 fun he => h ?_)
        rw [he.1, he.2]
      | _ => rfl

end Sys2Proof.Machine
end

section
open Sys2Proof Sys2Proof.Machine

/-- Settles O13: the step stores, and a read after a store is settled word by word. -/
theorem writesStoreTheWord : Obligations.WritesStoreTheWord := by
  unfold Obligations.WritesStoreTheWord
  intro s a v rest t hs ht ha hst hb
  refine ⟨_, Target.Stores.step hst hb ht ha, ?_, fun P u hu => ?_, fun P b hout => ?_,
    fun P c j k hc hk => ?_⟩
  · rcases hst with rfl | ⟨r, rfl⟩ | ⟨c, j, rfl⟩ <;> rfl
  · rw [readTarget_writeTarget P (s := { s with bus := rest }) hs.bands_length v hst ht hu,
      readTarget_bus]
    rcases hst with rfl | ⟨r, rfl⟩ | ⟨c, j, rfl⟩ <;> rfl
  · rcases hst with rfl | ⟨r, rfl⟩ | ⟨c, j, rfl⟩
    · rfl
    · rfl
    · exact Memory.byteAt_writeWord_other P s.mem v (hout c j rfl)
  · subst hc
    exact Memory.byteAt_writeWord_same P s.mem _ v hk
end

section
open Sys2Proof Sys2Proof.Machine

/-- Settles O18, by the fields that neither an error nor an effect writes. -/
theorem noCommandWritesTheHostsRegisters : Obligations.NoCommandWritesTheHostsRegisters := by
  unfold Obligations.NoCommandWritesTheHostsRegisters
  refine ⟨fun i s t h => ?_, fun s t h => ?_⟩
  · rcases exec_next h with ⟨c, -, rfl⟩ | ⟨-, rfl⟩
    · exact ⟨rfl, rfl, rfl, rfl⟩
    · obtain ⟨harg, hctl, hbus, hrdata, -, -⟩ := effectOf_host i s
      exact ⟨harg, hctl, hbus, hrdata⟩
  · rcases step_next_cases h with ⟨ht, -⟩ | ⟨v, u, -, hu, rfl⟩ | ⟨i, -, rfl⟩
    · rw [ht]
    · rcases hu with rfl | ⟨r, rfl⟩ | ⟨c, j, rfl⟩ <;> rfl
    · obtain ⟨-, -, hbus, -⟩ := effectOf_host i { s with bus := s.bus.tail }
      exact hbus

/-- Settles O19, by the instructions that leave each part alone. -/
theorem eachCommandWritesOnlyItsOwnState : Obligations.EachCommandWritesOnlyItsOwnState := by
  unfold Obligations.EachCommandWritesOnlyItsOwnState
  intro i s t h
  rcases exec_next h with ⟨c, -, rfl⟩ | ⟨-, rfl⟩
  · exact ⟨fun _ => rfl, fun _ => ⟨rfl, rfl⟩, fun _ => rfl, fun _ _ => rfl, fun _ _ => rfl⟩
  · refine ⟨effectOf_result s, fun hi => ?_, effectOf_mem s, effectOf_ch s, effectOf_an s⟩
    obtain ⟨hrate, hnchan, -⟩ := effectOf_rate s hi
    exact ⟨hrate, hnchan⟩
end

section
/-! The status flags (10_state.md R49): which commands move CHG, AN_VALID and INIT_DONE. -/

namespace Sys2Proof.Machine

theorem effectOf_initDone (i : Instr) {s : State} (h : s.initDone = true) :
    (effectOf i s).initDone = true := by
  cases i with
  | init nch => rfl
  | process n => exact (processSamples_same Config.params n s).initDone.trans h
  | _ => exact h

/-- `process` and `init` alone write CHG, and `init` clears it. -/
theorem effectOf_chg (i : Instr) (s : State) : (effectOf i s).chg = s.chg ∨ isProcess i = true ∨
    (isInit i = true ∧ (effectOf i s).chg = false) := by
  cases i with
  | process n => exact .inr (.inl rfl)
  | init nch => exact .inr (.inr ⟨rfl, rfl⟩)
  | _ => exact .inl rfl

/-- A pushed sample may set AN_VALID and never clears it (45_analyser.md R282, R297). -/
theorem anPush_valid (P : Params) (phold : Bool) (x : Analyser × Nat) (w : Word)
    (h : x.1.valid = true) : (anPush P phold x w).1.valid = true := by
  unfold anPush
  simp only
  split
  · rfl
  · exact h

theorem writeAnalyser_valid (P : Params) (c n : Nat) {s : State} (h : s.an.valid = true) :
    (writeAnalyser P c n s).an.valid = true :=
  foldl_rel (R := fun x y : Analyser × Nat => x.1.valid = true → y.1.valid = true) (fun _ => id)
    (fun _ _ _ g f => f ∘ g) _ (fun x w _ => anPush_valid P _ x w) (s.an, s.draws) h

/-- What each command does to AN_VALID (45_analyser.md R297): `an.write` may set it, four commands clear
it, the others leave it. -/
theorem effectOf_valid (i : Instr) (s : State) :
    ((∃ c n, i = .anWrite c n) ∧ (s.an.valid = true → (effectOf i s).an.valid = true)) ∨
    (((∃ n, i = .anSkip n) ∨ (∃ n, i = .anSetlen n) ∨ i = .anSetwarp ∨ isInit i = true) ∧
      (effectOf i s).an.valid = false) ∨
    (effectOf i s).an.valid = s.an.valid := by
  cases i with
  | anWrite c n => exact .inl ⟨⟨c, n, rfl⟩, writeAnalyser_valid _ c n⟩
  | anSkip n => exact .inr (.inl ⟨.inl ⟨n, rfl⟩, rfl⟩)
  | anSetlen n => exact .inr (.inl ⟨.inr (.inl ⟨n, rfl⟩), rfl⟩)
  | anSetwarp => exact .inr (.inl ⟨.inr (.inr (.inl rfl)), rfl⟩)
  | init nch => exact .inr (.inl ⟨.inr (.inr (.inr rfl)), rfl⟩)
  | process n => exact .inr (.inr (congrArg _ (processSamples_same Config.params n s).an))
  | _ => exact .inr (.inr rfl)

end Sys2Proof.Machine
end

section
open Sys2Proof Sys2Proof.Machine

/-- Settles O20, flag by flag. -/
theorem flagsChangeOnlyAsListed : Obligations.FlagsChangeOnlyAsListed := by
  unfold Obligations.FlagsChangeOnlyAsListed
  intro i s t h
  rcases exec_next h with ⟨c, -, rfl⟩ | ⟨-, rfl⟩
  · exact ⟨fun hc => absurd rfl hc, fun h0 h1 => absurd (h0.symm.trans h1) nofun,
      fun h1 h0 => absurd (h0.symm.trans h1) nofun, id,
      fun h0 h1 => absurd (h0.symm.trans h1) nofun⟩
  · refine ⟨fun hc => ?chg, fun h0 h1 => ?set, fun h1 h0 => ?cleared, effectOf_initDone i,
      fun h0 h1 => ?initDone⟩
    case chg => exact (effectOf_chg i s).resolve_left hc
    case set =>
      rcases effectOf_valid i s with ⟨hw, -⟩ | ⟨-, hv⟩ | hv
      · exact hw
      · simp [hv] at h1
      · simp [hv, h0] at h1
    case cleared =>
      rcases effectOf_valid i s with ⟨-, hv⟩ | ⟨hc, -⟩ | hv
      · simp [hv h1] at h0
      · exact hc
      · simp [hv, h1] at h0
    case initDone =>
      by_contra hi
      obtain ⟨-, -, hd⟩ := effectOf_rate s (Bool.not_eq_true _ ▸ hi)
      simp [hd, h0] at h1
end

section
/-! What holds of the traces (20_memory.md R84; 45_analyser.md R295, R296), and so of the whole state, from
step to step. -/

namespace Sys2Proof.Machine

/-- The part of `State.Consistent` that speaks of the analyser. -/
structure Analyser.TracesOk (a : Analyser) : Prop where
  tail_zero : ∀ k, a.len / 2 < k → a.power.getD k 0 = 0 ∧ a.peak.getD k 0 = 0
  pmax_number : (F32.ofWord a.pmax).isNan = false
  peak_number : ∀ p ∈ a.peak, (F32.ofWord p).isNan = false

theorem ofWord_zero_isNan : (F32.ofWord 0).isNan = false := by decide

theorem zeroTrace_getD (k : Nat) : zeroTrace.getD k 0 = 0 := by
  simp only [zeroTrace, List.getD_eq_getElem?_getD, List.getElem?_replicate]
  split <;> rfl

theorem zeroTrace_number : ∀ p ∈ zeroTrace, (F32.ofWord p).isNan = false := fun _ hp =>
  List.eq_of_mem_replicate hp ▸ ofWord_zero_isNan

/-- A product of a number with a finite number that is no zero is a number. -/
theorem mul_isNan {a b : F32} (ha : a.isFinite = true) (hz : a.isZero = false)
    (hb : b.isNan = false) : (a.mul b).isNan = false := by
  by_cases hf : b.isFinite = true
  · exact Flt.isNan_of_rounded (Flt.rounded_mul isFormat_b32 ha hf)
  · rw [Flt.eq_inf_of_not_isFinite hb hf,
      Flt.mul_inf_of_number isFormat_b32 _ (Flt.isNan_of_isFinite ha), hz]
    rfl

/-- The greatest entry of a trace is a number, because NaN entries are skipped. -/
theorem traceMax_isNan (trace : List Word) : (traceMax trace).isNan = false := by
  refine foldl_rel (R := fun m n : F32 => m.isNan = false → n.isNan = false) (fun _ => id)
    (fun _ _ _ g f => f ∘ g) trace (fun m p _ hm => ?_) Const.zero rfl
  split
  case isTrue h => exact Flt.isNan_of_lt h
  case isFalse => exact hm

theorem pmaxUpdate_isNan {pmax : F32} (h : pmax.isNan = false) (trace : List Word) :
    (pmaxUpdate pmax trace).isNan = false := by
  unfold pmaxUpdate
  split
  · exact traceMax_isNan trace
  · exact mul_isNan (by decide) (by decide) h

/-- The hold takes a new power only where it is greater, which no NaN is. -/
theorem peakUpdate_number (phold : Bool) :
    ∀ {power peak : List Word}, (∀ q ∈ peak, (F32.ofWord q).isNan = false) →
      ∀ q ∈ peakUpdate phold power peak, (F32.ofWord q).isNan = false := by
  intro power
  cases phold with
  | false => exact fun h => h
  | true =>
    induction power with
    | nil => intro peak _ q hq; cases hq
    | cons p ps ih =>
      intro peak h q hq
      cases peak with
      | nil => cases hq
      | cons r rs =>
        rw [peakUpdate, if_pos rfl, List.zipWith_cons_cons] at hq
        rcases List.mem_cons.1 hq with rfl | hq
        · split
          case isTrue hgt => exact Flt.isNan_of_lt hgt
          case isFalse => exact h _ (List.mem_cons_self ..)
        · exact ih (fun x hx => h x (List.mem_cons_of_mem _ hx)) q hq

/-- Entries beyond the replaced ones are as before. -/
theorem getD_append_drop {l p : List Word} {n k : Nat} (hl : l.length = n) (hk : n ≤ k) :
    (l ++ p.drop n).getD k 0 = p.getD k 0 := by
  rw [List.getD_eq_getElem?_getD, List.getElem?_append_right (hl ▸ hk), List.getElem?_drop, hl,
    Nat.add_sub_cancel' hk, ← List.getD_eq_getElem?_getD]

section
variable {a : Analyser} {P : Params}

theorem Analyser.clear_tracesOk (a : Analyser) : a.clear.TracesOk :=
  ⟨fun k _ => ⟨zeroTrace_getD k, zeroTrace_getD k⟩, ofWord_zero_isNan, zeroTrace_number⟩

theorem anPass_power (phold : Bool) (d : Nat) (a : Analyser) : (anPass P phold d a).power =
    a.newPower P d a.warped ++ a.power.drop (a.len / 2 + 1) := rfl

theorem anPass_peak (phold : Bool) (d : Nat) (a : Analyser) : (anPass P phold d a).peak =
    peakUpdate phold (a.newPower P d a.warped) (a.peak.take (a.len / 2 + 1)) ++
      a.peak.drop (a.len / 2 + 1) := rfl

/-- A pass writes the entries 0..L/2 only, and no NaN to PMAX or PEAK. -/
theorem Analyser.TracesOk.anPass (h : a.TracesOk) (hlen : a.len ≤ Config.fftMax)
    (hpeak : a.peak.length = Config.fftMax / 2 + 1) (phold : Bool) (d : Nat) :
    (anPass P phold d a).TracesOk := by
  have hpw : (a.newPower P d a.warped).length = a.len / 2 + 1 := Analyser.newPower_length _ _
  have htake : (a.peak.take (a.len / 2 + 1)).length = a.len / 2 + 1 := by
    rw [List.length_take]; omega
  have hpk := (peakUpdate_length phold (hpw.trans htake.symm)).trans htake
  refine ⟨fun k hk => ?_, ?_, fun q hq => ?_⟩
  · rw [anPass_power, anPass_peak, getD_append_drop hpw hk, getD_append_drop hpk hk]
    exact h.tail_zero k hk
  · rw [Machine.anPass, ofWord_toWord_drawNan]
    exact pmaxUpdate_isNan h.pmax_number _
  · rw [anPass_peak] at hq
    rcases List.mem_append.1 hq with hq | hq
    · exact peakUpdate_number phold (fun x hx => h.peak_number x (List.mem_of_mem_take hx)) q hq
    · exact h.peak_number q (List.mem_of_mem_drop hq)

theorem Analyser.TracesOk.push (h : a.TracesOk) (hok : a.Ok) (phold : Bool) (d : Nat) (w : Word) :
    (anPush P phold (a, d) w).1.TracesOk := by
  have hstored : ∀ n, { a with
      ipbuf := a.ipbuf.set a.wr w, wr := (a.wr + 1) % Config.ipSize, pend := n }.TracesOk := fun n =>
    { h with }
  unfold anPush
  simp only
  split
  · exact { (hstored _).anPass hok.len_max hok.peak_length phold d with }
  · exact hstored _

theorem Analyser.Op.tracesOk {b : Analyser} (hop : Analyser.Op P a b) (hok : a.Ok)
    (h : a.TracesOk) : b.TracesOk := by
  cases hop with
  | push phold w d => exact h.push hok phold d w
  | skip n => exact { h with }
  | setLen n rate => exact { { a with len := anLength n }.clear_tracesOk with }
  | setWarp d v => exact Analyser.clear_tracesOk _
  | setSpeed d v rate => exact { h with }
  | clearPeak =>
    exact ⟨fun k hk => ⟨(h.tail_zero k hk).1, zeroTrace_getD k⟩, h.pmax_number, zeroTrace_number⟩
  | initial rate => exact { Analyser.clear_tracesOk _ with }

end

theorem State.Consistent.tracesOk {s : State} (h : s.Consistent) : s.an.TracesOk :=
  ⟨h.tail_zero, h.pmax_number, h.peak_number⟩

theorem step_keeps_tracesOk {s t : State} (hok : s.an.Ok) (hs : s.an.TracesOk)
    (h : step s = .next t) : t.an.TracesOk :=
  (step_keeps_an (I := fun a => a.Ok ∧ a.TracesOk)
    (fun _ _ hop ha => ⟨hop.ok ha.1, hop.tracesOk ha.1 ha.2⟩) ⟨hok, hs⟩ h).2

theorem step_keeps_cause_iff {s t : State} (hs : s.err = false ↔ s.cause = .none)
    (h : step s = .next t) : t.err = false ↔ t.cause = .none := by
  rcases step_next_cases h with ⟨-, he⟩ | ⟨v, u, -, hu, rfl⟩ | ⟨i, -, rfl⟩
  · rcases he with ⟨he, hc⟩ | ⟨he, hc⟩ | ⟨he, hc⟩
    · rwa [he, hc]
    · exact iff_of_true he hc
    · exact iff_of_false (by simp [he]) hc
  · rcases hu with rfl | ⟨r, rfl⟩ | ⟨c, j, rfl⟩ <;> exact hs
  · obtain ⟨-, -, -, -, he, hc⟩ := effectOf_host i { s with bus := s.bus.tail }
    rw [he, hc]
    exact hs

/-- `init` without an error has a valid rate and one or two channels (46_control.md R321, R322). -/
theorem init_operands {nch : Nat} {s : State} (h : errorOf (.init nch) s = none) :
    1 ≤ nch ∧ nch ≤ Config.nChanMax ∧ rateOk s.arg0F = true := by
  by_contra hn
  simp [errorOf, hn] at h

theorem step_keeps_rate_set {s t : State}
    (hs : s.initDone = true → rateOk s.rateF = true ∧ 1 ≤ s.nchan.val) (h : step s = .next t) :
    t.initDone = true → rateOk t.rateF = true ∧ 1 ≤ t.nchan.val := by
  rcases step_next_cases h with ⟨ht, -⟩ | ⟨v, u, -, hu, rfl⟩ | ⟨i, hn, rfl⟩
  · rw [ht]; exact hs
  · rcases hu with rfl | ⟨r, rfl⟩ | ⟨c, j, rfl⟩ <;> exact hs
  · by_cases hi : isInit i = true
    · cases i with
      | init nch =>
        obtain ⟨h1, h2, hr⟩ := init_operands hn
        intro _
        refine ⟨hr, ?_⟩
        rw [effectOf, initialise_nchan, Fin.val_ofNat, Nat.mod_eq_of_lt (Nat.lt_succ_of_le h2)]
        exact h1
      | _ => cases hi
    · obtain ⟨hr, hc, hd⟩ := effectOf_rate { s with bus := s.bus.tail } (Bool.not_eq_true _ ▸ hi)
      rw [State.rateF, hr, hc, hd]
      exact hs

end Sys2Proof.Machine
end

section
open Sys2Proof Sys2Proof.Machine

/-- Settles O58, link by link. -/
theorem everyStepKeepsConsistent : Obligations.EveryStepKeepsConsistent := by
  unfold Obligations.EveryStepKeepsConsistent
  intro s t hinv hs h
  obtain ⟨htail, hpmax, hpeak⟩ := step_keeps_tracesOk hinv.an_ok hs.tracesOk h
  exact ⟨step_keeps_cause_iff hs.cause_iff h, step_keeps_rate_set hs.rate_set h, htail, hpmax, hpeak⟩
end

section
/-! The smoothed global gain (44_channel.md R257) stays positive: the target is a number, both step bounds
are positive because a positive float times more than a half is not rounded to 0, and the new gain is one of
the three. -/

namespace Sys2Proof.Flt

open Machine

variable {f : Fmt}

protected theorem lt_of_lt_of_le {a b c : Flt f} (hab : a.lt b = true) (hbc : b.le c = true) :
    a.lt c = true := by
  obtain ⟨ha, -, hk⟩ := lt_iff.1 hab
  obtain ⟨-, hc, hk'⟩ := le_iff.1 hbc
  exact lt_iff.2 ⟨ha, hc, hk.trans_le hk'⟩

theorem le_of_not_lt {a b : Flt f} (ha : a.isNan = false) (hb : b.isNan = false)
    (h : ¬a.lt b = true) : b.le a = true :=
  le_iff.2 ⟨hb, ha, not_lt.1 fun hk => h (lt_iff.2 ⟨ha, hb, hk⟩)⟩

theorem isNan_round (s : Bool) (m : Nat) (e : Int) : (round s m e : Flt f).isNan = false := by
  unfold round
  split <;> rfl

theorem isNan_scaleB {a : Flt f} (h : a.isNan = false) (i : Int) : (a.scaleB i).isNan = false := by
  obtain ⟨s, m, rfl⟩ := eq_num_of_isNan h
  unfold scaleB
  simp only
  split
  · rfl
  · exact isNan_round _ _ _

/-- `floor` of a finite value is the integer below its exact value. -/
theorem floor_eq {a : Flt f} (h : a.isFinite = true) : a.floor = ⌊a.toRat⌋ := by
  obtain ⟨s, m, hm, rfl⟩ := eq_num_of_isFinite h
  have hz : (2 : Rat) ^ expo f m.val = 2 ^ (expo f m.val).toNat / (2 ^ (-expo f m.val).toNat : Nat) := by
    push_cast
    rw [← zpow_natCast, ← zpow_natCast, ← zpow_sub₀ two_ne_zero]
    congr 1; omega
  have hv : (num s m : Flt f).toRat =
      (((if s then -1 else 1) * ((sig f m.val * 2 ^ (expo f m.val).toNat : Nat) : Int) : Int) : Rat) /
        (2 ^ (-expo f m.val).toNat : Nat) := by
    rw [toRat_num_eq hm, hz]
    cases s <;> · push_cast; ring
  rw [floor, if_neg hm, hv, Rat.floor_intCast_div_natCast]
  push_cast
  rfl

theorem key_zero : (Const.zero : Flt f).key = 0 := by simp [Const.zero, zero_eq, key]

theorem zero_lt_iff {a : Flt f} : Const.zero.lt a = true ↔ a.isNan = false ∧ 0 < a.key := by
  rw [lt_iff, key_zero]
  simp [Const.zero, zero_eq, isNan]

/-- A positive number has a positive sign. -/
theorem sign_of_pos {a : Flt f} (h : Const.zero.lt a = true) : a.sign = false := by
  obtain ⟨ha, hk⟩ := zero_lt_iff.1 h
  obtain ⟨s, m, rfl⟩ := eq_num_of_isNan ha
  cases s with
  | false => rfl
  | true => simp only [key] at hk; omega

/-- Every positive finite float is at least the least one. -/
theorem exists_least_pos (hf : IsFormat f) : ∃ u : Flt f, u.isFinite = true ∧ 0 < u.toRat ∧
    ∀ a : Flt f, a.isFinite = true → Const.zero.lt a = true → u.toRat ≤ a.toRat := by
  have h1 : (1 : Int).natAbs < f.infMag := by rcases hf with rfl | rfl <;> decide
  obtain ⟨u, hu, hk⟩ := exists_isFinite_key (f := f) h1
  refine ⟨u, hu, ?_, fun a ha hpos => ?_⟩
  · exact toRat_pos hf hu (zero_lt_iff.2 ⟨isNan_of_isFinite hu, by omega⟩)
  · have := (zero_lt_iff.1 hpos).2
    exact (toRat_le_iff hu ha).2 (by omega)

/-- More than a half of a positive float is not rounded to 0: the least float is closer. -/
theorem pos_of_rounded (hf : IsFormat f) {x : Rat} {a r : Flt f} (ha : a.isFinite = true)
    (hpos : Const.zero.lt a = true) (hx : a.toRat / 2 < x) (h : Rounded x r) :
    Const.zero.lt r = true := by
  obtain ⟨u, hu, hu0, hmin⟩ := exists_least_pos hf
  have hua := hmin a ha hpos
  have hx0 : 0 < x := by linarith
  by_contra hr
  have hle := le_of_not_lt rfl (isNan_of_rounded h) hr
  rcases finite_or_inf_of_rounded h with ⟨-, hrf⟩ | ⟨-, rfl⟩
  · have hr0 : r.toRat ≤ 0 := toRat_zero hf ▸ toRat_le_of_le hrf (isFinite_zero hf) hle
    have hd := dist_le_of_rounded h hrf hu
    rw [abs_of_neg (by linarith)] at hd
    exact (abs_lt.2 ⟨by linarith, by linarith⟩ : |u.toRat - x| < x).not_ge (by linarith)
  · rw [decide_eq_false hx0.not_gt] at hr
    have := hf.infMag_ne_zero
    exact hr (zero_lt_iff.2 ⟨rfl, by rw [key_inf, if_neg (by decide)]; omega⟩)

end Sys2Proof.Flt

namespace Sys2Proof.Machine

theorem half_toRat : (Const.half : F32).toRat = 1 / 2 := by
  have h : (Const.half : F32) = .num false ⟨0x3F000000, by decide⟩ := by decide
  rw [h, Flt.toRat_num_eq (by decide), show Flt.sig _ _ = 0x800000 by decide,
    show Flt.expo _ _ = -24 by decide]
  norm_num

/-- A positive gain times a factor above a half is positive, infinities included. -/
theorem mul_pos_of_half_lt {k a : F32} (hk : k.isFinite = true) (hh : Const.half.lt k = true)
    (ha : Const.zero.lt a = true) : Const.zero.lt (k.mul a) = true := by
  have hhalf : (Const.half : F32).isFinite = true := by decide
  have hk2 : 1 / 2 < k.toRat := half_toRat ▸ (Flt.toRat_lt_iff hhalf hk).2 (Flt.key_lt_of_lt hh)
  have hk0 : Const.zero.lt k = true :=
    Flt.lt_iff.2 ⟨rfl, Flt.isNan_of_isFinite hk, (Flt.toRat_lt_iff (Flt.isFinite_zero isFormat_b32) hk).1
      (by rw [Flt.toRat_zero isFormat_b32]; linarith)⟩
  have han := (Flt.zero_lt_iff.1 ha).1
  by_cases haf : a.isFinite = true
  · have ha0 := Flt.toRat_pos isFormat_b32 haf ha
    exact Flt.pos_of_rounded isFormat_b32 haf ha (by nlinarith) (Flt.rounded_mul isFormat_b32 hk haf)
  · rw [Flt.eq_inf_of_not_isFinite han haf, Flt.sign_of_pos ha,
      Flt.mul_inf_of_number isFormat_b32 _ (Flt.isNan_of_isFinite hk), Flt.isZero_of_pos hk0,
      Flt.sign_of_pos hk0]
    decide

/-- The fraction that EXP2AP takes of a clamped gain: its bounds are what the two ends of the gain's range
give. -/
def exp2apFracBound : F32 :=
  (Const.gainExp2Scale.mul Const.gainDbMax).sub
    (Flt.ofInt (Const.gainExp2Scale.mul Const.gainDbMin).floor)

theorem within_exp2apFrac {x : F32} (hlo : (Const.gainExp2Scale.mul Const.gainDbMin).le x = true)
    (hhi : x.le (Const.gainExp2Scale.mul Const.gainDbMax) = true) :
    Flt.Within exp2apFracBound (x.sub (Flt.ofInt x.floor)) := by
  have hlof : (Const.gainExp2Scale.mul Const.gainDbMin).isFinite = true := by decide
  have hhif : (Const.gainExp2Scale.mul Const.gainDbMax).isFinite = true := by decide
  have hrlof : (Flt.ofInt (Const.gainExp2Scale.mul Const.gainDbMin).floor : F32).isFinite = true := by
    decide
  have hxf := Flt.isFinite_of_le_le hlof hhif hlo hhi
  have hfloor : (Const.gainExp2Scale.mul Const.gainDbMin).floor ≤ x.floor := by
    rw [Flt.floor_eq hlof, Flt.floor_eq hxf]
    exact Int.floor_mono (Flt.toRat_le_of_le hlof hxf hlo)
  have hbelow : (Flt.ofInt x.floor).le x = true :=
    Flt.le_of_rounded (Flt.rounded_ofInt isFormat_b32 _) (Flt.rounded_self isFormat_b32 hxf)
      (by rw [Flt.floor_eq hxf]; exact Int.floor_le _)
  have habove : (Flt.ofInt (Const.gainExp2Scale.mul Const.gainDbMin).floor).le
      (Flt.ofInt x.floor : F32) = true :=
    Flt.le_of_rounded (Flt.rounded_ofInt isFormat_b32 _) (Flt.rounded_ofInt isFormat_b32 _)
      (Int.cast_le.2 hfloor)
  have hrf := Flt.isFinite_of_le_le hrlof hxf habove hbelow
  exact ⟨Flt.zero_le_of_rounded isFormat_b32 (Flt.rounded_sub isFormat_b32 hxf hrf)
      (sub_nonneg.2 (Flt.toRat_le_of_le hrf hxf hbelow)),
    Flt.sub_le_sub isFormat_b32 hxf hhif hrlof hrf hhi habove⟩

/-- EXP2AP's polynomial on a bounded fraction is a number: each Horner step stays below the step on the
bound, which is finite. -/
theorem exp2apPoly_isNan {v : F32} (h : Flt.Within exp2apFracBound v) :
    (exp2apPoly v).isNan = false := by
  have hB : exp2apFracBound.isFinite = true := by decide
  have horner : ∀ {c A a : F32}, Flt.Within c c → c.isFinite = true → A.isFinite = true →
      (exp2apFracBound.mul A).isFinite = true → Flt.Within A a →
      Flt.Within (c.add (exp2apFracBound.mul A)) (c.add (v.mul a)) := fun hc hcf hA hAf ha =>
    hc.add isFormat_b32 (h.mul isFormat_b32 ha hB hA) hcf hAf
  have h4 : Flt.Within Const.exp2apC4 Const.exp2apC4 := ⟨by decide, by decide⟩
  have h3 := horner (c := Const.exp2apC3) ⟨by decide, by decide⟩ (by decide) (by decide) (by decide) h4
  have h2 := horner (c := Const.exp2apC2) ⟨by decide, by decide⟩ (by decide) (by decide) (by decide) h3
  have h1 := horner (c := Const.exp2apC1) ⟨by decide, by decide⟩ (by decide) (by decide) (by decide) h2
  have h0 := horner (c := Const.one) ⟨by decide, by decide⟩ (by decide) (by decide) (by decide) h1
  exact Flt.isNan_of_isFinite (h0.isFinite isFormat_b32 (by decide))

/-- The linear gain of a clamped gain register is a number. -/
theorem gainLin_clamp_isNan (v : F32) :
    (gainLin (v.clamp Const.gainDbMin Const.gainDbMax)).isNan = false := by
  obtain ⟨hlo, hhi⟩ := Flt.clamp_mem (v := v) (lo := Const.gainDbMin) (hi := Const.gainDbMax)
    (by decide) (by decide) (by decide)
  have hlof : Const.gainDbMin.isFinite = true := by decide
  have hhif : Const.gainDbMax.isFinite = true := by decide
  have hf := Flt.isFinite_of_le_le hlof hhif hlo hhi
  have hscale : Const.gainExp2Scale.isFinite = true := by decide
  have hpos : Const.zero.le Const.gainExp2Scale = true := by decide
  exact Flt.isNan_scaleB (exp2apPoly_isNan (within_exp2apFrac
    (Flt.mul_le_mul_of_zero_le isFormat_b32 hlof hf hscale hpos hlo)
    (Flt.mul_le_mul_of_zero_le isFormat_b32 hf hhif hscale hpos hhi))) _

/-- A number raised to a positive bound from below, and one cut to a positive bound from above. -/
theorem pos_of_raised {lo v : F32} (hlo : Const.zero.lt lo = true) (hv : v.isNan = false) :
    Const.zero.lt (if v.lt lo then lo else v) = true := by
  split
  case isTrue => exact hlo
  case isFalse h => exact Flt.lt_of_lt_of_le hlo (Flt.le_of_not_lt hv (Flt.zero_lt_iff.1 hlo).1 h)

theorem pos_of_capped {hi v : F32} (hhi : Const.zero.lt hi = true) (hv : Const.zero.lt v = true) :
    Const.zero.lt (if v.gt hi then hi else v) = true := by
  split
  · exact hhi
  · exact hv

theorem gainNext_pos (gainDb : Word) {gp : F32} (h : Const.zero.lt gp = true) :
    Const.zero.lt (gainNext gainDb gp) = true :=
  pos_of_capped (mul_pos_of_half_lt (by decide) (by decide) h)
    (pos_of_raised (mul_pos_of_half_lt (by decide) (by decide) h) (gainLin_clamp_isNan _))

theorem subblock_keeps_gain (P : Params) : SubblockKeeps P fun x => Const.zero.lt x.gs = true := by
  intro r rate x d y w b hx hy
  obtain ⟨-, -, hgs, -⟩ := Chan.subblock_some hy
  exact hgs ▸ gainNext_pos _ hx

end Sys2Proof.Machine
end

section
open Sys2Proof Sys2Proof.Machine

/-- Settles O59: every sub-block gives a positive gain, and `init` gives 1.0. -/
theorem everyStepKeepsGainsPositive : Obligations.EveryStepKeepsGainsPositive := by
  unfold Obligations.EveryStepKeepsGainsPositive
  have hone : Const.zero.lt (Const.one : F32) = true := by decide
  exact fun s t hs h => (subblock_keeps_gain _).step (fun _ _ => hone) hs h
end

section
/-! The words of commands and of registers: the command that a command's word decodes to (30_encoding.md
R120, R123), STATUS bit by bit (10_state.md R32), and the bytes of a word (20_memory.md R87). -/

namespace Sys2Proof.Machine

/-- The fields SEL and IMM of a command's row (30_encoding.md R115). -/
def selImm : Instr → Nat × Nat
  | .init nch => (nch, 0)
  | .process n | .anSkip n | .anSetlen n | .respLs n | .respHs n => (0, n)
  | .anWrite a b | .respBand a b => (a, b)
  | .nop | .anSetwarp | .anSetspeed | .anClrpeak => (0, 0)

theorem encode_eq_packFields (i : Instr) :
    encode i = packFields (Laws.opcodeOf i) (selImm i).1 (selImm i).2 := by cases i <;> rfl

theorem opcodeOf_lt (i : Instr) : Laws.opcodeOf i < 2 ^ 8 := by
  cases i <;> simp [Laws.opcodeOf]

/-- The operands of a well-formed command fit their fields (30_encoding.md R120). -/
theorem selImm_lt {i : Instr} (h : i.wellFormed = true) :
    (selImm i).1 < 2 ^ 4 ∧ (selImm i).2 < 2 ^ 20 := by
  cases i with
  | nop | anSetwarp | anSetspeed | anClrpeak => decide
  | _ => simpa [Instr.wellFormed, selImm] using h

/-- The decoder gives back a well-formed command. -/
theorem decode_encode_of_wellFormed {i : Instr} (h : i.wellFormed = true) :
    decode (encode i) = .ok i := by
  obtain ⟨hs, hi⟩ := selImm_lt h
  obtain ⟨hopc, hsel, himm⟩ := Laws.packFields_fields (opcodeOf_lt i) hs hi
  rw [encode_eq_packFields, decode, hopc, hsel, himm]
  cases i <;> rfl

/-- STATUS as a number: the flags at bits 0 to 3, CAUSE at bits 11:8, the rest 0. -/
theorem status_toNat (s : State) : s.status.toNat = s.err.toNat + 2 * s.chg.toNat +
    4 * s.an.valid.toNat + 8 * s.initDone.toNat + 256 * s.cause.code.toNat := by
  unfold State.status
  generalize s.err = e
  generalize s.chg = c
  generalize s.an.valid = v
  generalize s.initDone = d
  cases s.cause <;> revert e c v d <;> decide

@[simp] theorem enWord_toNat (b : Bool) : (enWord b).toNat = b.toNat := by cases b <;> rfl

theorem Controls.band_of_getElem? {r : Controls} {i : Nat} {b : BandControls}
    (h : r.bands[i]? = some b) : r.band i = b := by
  rw [Controls.band, List.getD_eq_getElem?_getD, h, Option.getD_some]

/-- The four bytes of a word, cut out of it. -/
theorem extractLsb'_append_bytes (b3 b2 b1 b0 : Byte) :
    (b3 ++ b2 ++ b1 ++ b0).extractLsb' 0 8 = b0 ∧ (b3 ++ b2 ++ b1 ++ b0).extractLsb' 8 8 = b1 ∧
      (b3 ++ b2 ++ b1 ++ b0).extractLsb' 16 8 = b2 ∧ (b3 ++ b2 ++ b1 ++ b0).extractLsb' 24 8 = b3 := by
  refine ⟨?_, ?_, ?_, ?_⟩ <;> ext i hi <;> simp <;> grind

/-- The bytes of an AUDIO word are the bytes at its four addresses. -/
theorem extractLsb'_wordAt (P : Params) (m : Memory) (a : Nat) {k : Nat} (hk : k < 4) :
    (m.wordAt P a).extractLsb' (8 * k) 8 = m.byteAt P (a + k) := by
  obtain ⟨h0, h1, h2, h3⟩ := extractLsb'_append_bytes (m.byteAt P (a + 3)) (m.byteAt P (a + 2))
    (m.byteAt P (a + 1)) (m.byteAt P a)
  match k, hk with
  | 0, _ => exact h0
  | 1, _ => exact h1
  | 2, _ => exact h2
  | 3, _ => exact h3

end Sys2Proof.Machine
end

section
open Sys2Proof Sys2Proof.Machine

/-- Settles O7: CMD is the one address that executes, and a command's word decodes to the command. -/
theorem stepRunsTheDecodedCommand : Obligations.StepRunsTheDecodedCommand := by
  unfold Obligations.StepRunsTheDecodedCommand
  have hrun : ∀ (s : State) (w : Word) (rest : List BusAccess) (i : Instr),
      s.bus = .write cmdAddr w :: rest → decode w = .ok i → step s = exec i { s with bus := rest } := by
    intro s w rest i hb hw
    rw [step, hb]
    simp only [isCmd_cmdAddr, if_true, execute, hw]
  refine ⟨hrun, fun s i hi => ?_⟩
  have hword : BitVec.ofNat 32 ((encode i).toNat % 2 ^ 32) = encode i :=
    by
    rw [Nat.mod_eq_of_lt (encode i).isLt, BitVec.ofNat_toNat, BitVec.setWidth_eq]
  exact hrun _ (encode i) s.bus i (by rw [State.withFetchWord, hword, cmdAddr])
    (decode_encode_of_wellFormed hi)

/-- Settles O12: a read answers the word of its target, and each word is the state it shows. -/
theorem readsAnswerTheWord : Obligations.ReadsAnswerTheWord := by
  unfold Obligations.ReadsAnswerTheWord
  intro s a rest t ht ha hb r
  refine ⟨step_read hb ht ha, ?status, ?iface, ?enables, ?floats, ?bands, ?traces, ?audio⟩
  case status =>
    rintro rfl
    refine (status_toNat s).trans ?_
    cases s.cause <;> rfl
  case iface =>
    simp only [List.forall_mem_cons]
    refine ⟨?_, ?_, ?_, ?_, ?_, ?_, ?_, ?_, ?_, ?_, ?_, by simp⟩ <;> rintro rfl <;> rfl
  case enables =>
    simp only [List.forall_mem_cons]
    refine ⟨?_, ?_, ?_, ?_, ?_, ?_, by simp⟩ <;> rintro rfl <;> exact enWord_toNat _
  case floats =>
    simp only [List.forall_mem_cons]
    refine ⟨?_, ?_, ?_, ?_, ?_, ?_, ?_, ?_, ?_, ?_, ?_, by simp⟩ <;> rintro rfl <;> rfl
  case bands =>
    intro i b hi
    have hband := Controls.band_of_getElem? hi
    refine ⟨?_, ?_, ?_, ?_⟩ <;> rintro rfl
    · exact (enWord_toNat _).trans (by rw [hband])
    · exact congrArg BandControls.freq hband
    · exact congrArg BandControls.bw hband
    · exact congrArg BandControls.gainDb hband
  case traces =>
    intro k w
    refine ⟨?_, ?_⟩ <;> rintro hk rfl
    · exact (List.getD_eq_getElem?_getD ..).trans (by rw [hk]; rfl)
    · exact (List.getD_eq_getElem?_getD ..).trans (by rw [hk]; rfl)
  case audio =>
    rintro c j k rfl hk
    exact extractLsb'_wordAt _ _ _ hk
end

section
/-! The machine at power-on (10_state.md R64, R65). -/

namespace Sys2Proof.Machine

/-- Parameters whose power-on bytes from address `a` on are those of `v`. -/
def powerOnAt (a : Nat) (v : Word) : Params :=
  { Config.params with audioPowerOn := fun b => v.extractLsb' (8 * (b - a)) 8 }

theorem wordAt_powerOnAt (a : Nat) (v : Word) : Memory.wordAt (powerOnAt a v) [] a = v := by
  have h := append_bytes v
  simpa [Memory.wordAt, Memory.byteAt, Memory.find, powerOnAt] using h

theorem mem_reset_ch {x : Chan} (h : x ∈ State.reset.ch) : x = Chan.reset := List.eq_of_mem_replicate h

theorem reset_an_ok : Analyser.reset.Ok where
  len_pow := ⟨13, rfl⟩
  len_min := by decide
  len_max := by decide
  wr_lt := by decide
  pend_lt := by decide
  wfact_le := by decide
  speed_ge := by decide
  speed_le := by decide
  ipbuf_length := List.length_replicate
  warpst_length := List.length_replicate
  power_length := List.length_replicate
  peak_length := List.length_replicate

theorem reset_inv : State.reset.Inv where
  ch_length := List.length_replicate
  ch_ok := fun _ hx => mem_reset_ch hx ▸ ⟨by decide, by decide⟩
  an_ok := reset_an_ok
  bands_length := rfl
  mem_wf := Memory.wf_nil
  mem_audio := nofun

theorem reset_consistent : State.reset.Consistent where
  cause_iff := ⟨fun _ => rfl, fun _ => rfl⟩
  rate_set := nofun
  tail_zero := fun k _ => ⟨zeroTrace_getD k, zeroTrace_getD k⟩
  pmax_number := ofWord_zero_isNan
  peak_number := zeroTrace_number

theorem reset_gainsPositive : State.reset.GainsPositive := fun _ hx =>
  mem_reset_ch hx ▸ by decide

theorem reset_sectionsInRange : State.reset.SectionsInRange := fun _ hx => by
  have hzero : Hplp.reset.InRange := ⟨by decide, by decide, by decide, by decide⟩
  exact mem_reset_ch hx ▸ ⟨hzero, hzero⟩

end Sys2Proof.Machine
end

section
open Sys2Proof Sys2Proof.Machine

/-- Settles O55: the registers are read off the reset state, and an AUDIO word off the power-on bytes. -/
theorem resetRegisters : Obligations.ResetRegisters := by
  unfold Obligations.ResetRegisters
  refine ⟨fun P => ⟨?iface, ?ctl, ?bands, ?traces⟩, fun c j v => ⟨_, wordAt_powerOnAt (audioAddr c j) v⟩⟩
  case iface =>
    simp only [List.forall_mem_cons]
    refine ⟨?_, ?_, ?_, ?_, ?_, ?_, ?_, ?_, ?_, ?_, ?_, by simp⟩ <;> rfl
  case ctl =>
    simp only [List.forall_mem_cons]
    refine ⟨?_, ?_, ?_, ?_, ?_, ?_, ?_, ?_, ?_, ?_, ?_, ?_, ?_, ?_, ?_, ?_, ?_, ?_, ?_, ?_, ?_,
      by simp⟩ <;> rfl
  case bands =>
    intro i hi
    match i, hi with
    | 0, _ | 1, _ | 2, _ | 3, _ => exact ⟨rfl, rfl, rfl⟩
  case traces => exact fun k => ⟨zeroTrace_getD k, zeroTrace_getD k⟩

/-- Settles O56; the poles have no range before `init`. -/
theorem invariantsHoldAtReset : Obligations.InvariantsHoldAtReset := by
  unfold Obligations.InvariantsHoldAtReset
  exact ⟨reset_inv, reset_consistent, reset_gainsPositive, reset_sectionsInRange, nofun⟩
end

section
/-! Host accesses that fault (20_memory.md R85): at an address that names nothing (R88, R90), and a write to a
read-only word (R91). -/

namespace Sys2Proof.Machine

/-- An address names nothing exactly if it is the address of no target that exists. -/
theorem locate_eq_none_iff {a : Word} :
    locate a = none ↔ ∀ t : Target, t.Mapped → t.addr ≠ a.toNat := by
  rw [Option.eq_none_iff_forall_ne_some]
  refine ⟨fun h t ht ha => h t (locate_of_mapped ht ha), fun h t hl => ?_⟩
  obtain ⟨ht, ha⟩ := of_locate hl
  exact h t ht ha

theorem locate_of_misaligned {a : Word} (h : a.toNat % 4 ≠ 0) : locate a = none := if_neg h

theorem isCmd_of_locate_none {a : Word} (h : locate a = none) : isCmd a = false := by
  rw [isCmd, h]
  rfl

/-- A read at an address that names nothing answers 0 and records BUS_FAULT. -/
theorem step_read_fault {s : State} {a : Word} {rest : List BusAccess} (hb : s.bus = .read a :: rest)
    (h : locate a = none) :
    step s = .next { s with bus := rest, err := true, cause := .busFault, rdata := 0 } := by
  rw [step, hb]
  simp only [busRead, h]
  rfl

/-- A write to an address other than CMD is the bus primitive. -/
theorem step_write_of_not_isCmd {s : State} {a v : Word} {rest : List BusAccess}
    (hb : s.bus = .write a v :: rest) (h : isCmd a = false) :
    step s = .next (busWrite a v { s with bus := rest }) := by
  rw [step, hb]
  simp only [h, Bool.false_eq_true, if_false]

theorem busWrite_of_locate_none {a : Word} (h : locate a = none) (v : Word) (s : State) :
    busWrite a v s = s.raise .busFault := by
  rw [busWrite, h]

theorem busWrite_of_readOnly {a : Word} {t : Target} (h : locate a = some t) (hro : t.readOnly = true)
    (v : Word) (s : State) : busWrite a v s = s.raise .busFault := by
  rw [busWrite, h]
  exact if_pos hro

theorem ne_cmd_of_readOnly {t : Target} (h : t.readOnly = true) : t ≠ .iface .cmd := by
  rintro rfl
  cases h

/-- A write to a read-only word records BUS_FAULT. -/
theorem step_write_readOnly {s : State} {a v : Word} {rest : List BusAccess} {t : Target}
    (hb : s.bus = .write a v :: rest) (ht : t.Mapped) (ha : t.addr = a.toNat) (hro : t.readOnly = true) :
    step s = .next (State.raise { s with bus := rest } .busFault) := by
  have hl := locate_of_mapped ht ha
  have hc : isCmd a = false := (isCmd_of_locate hl).trans (decide_eq_false (ne_cmd_of_readOnly hro))
  rw [step_write_of_not_isCmd hb hc, busWrite_of_readOnly hl hro]

end Sys2Proof.Machine
end

section
/-! The frame of `process` (44_channel.md R251, R263): every sub-block of an active channel replaces that
channel's record and stores samples of its own block. -/

namespace Sys2Proof.Machine

/-- A machine that differs in the fields of `process` only. -/
theorem SameButAudio.eq {s t : State} (h : SameButAudio s t) :
    t = { s with ch := t.ch, mem := t.mem, chg := t.chg, draws := t.draws } := by
  obtain ⟨herr, hcause, hinit, harg, hresult, hrate, hnchan, hctl, han, hbus, hrdata, -⟩ := h
  rw [← herr, ← hcause, ← hinit, ← harg, ← hresult, ← hrate, ← hnchan, ← hctl, ← han, ← hbus,
    ← hrdata]

/-- `processSamples_rel` where the sub-blocks are known to be of active channels. -/
theorem processSamples_rel_active {R : State → State → Prop} (hr : ∀ s, R s s)
    (ht : ∀ s t u, R s t → R t u → R s u) {P : Params} {n : Nat}
    (hchg : ∀ s : State, R s { s with chg := false }) (s : State)
    (hsub : ∀ (u : State) (b : Nat × Nat) (c : Nat), b.1 + b.2 ≤ n → c < s.nchan.val →
      R u (chSubblock P b.1 b.2 u c)) : R s (processSamples P n s) := by
  have hall : ∀ u : State, ∀ b ∈ subblocks n, u.nchan = s.nchan → R u (subblockAll P u b) :=
    fun u b hb hu => foldl_rel hr ht _
      (fun v c hc => hsub v b c (mem_subblocks hb) (hu ▸ List.mem_range.1 hc)) u
  have hfold := foldl_rel (R := fun u v => u.nchan = s.nchan → v.nchan = s.nchan ∧ R u v)
    (fun u hu => ⟨hu, hr u⟩)
    (fun u v w huv hvw hu => by
      obtain ⟨hv, hRuv⟩ := huv hu
      obtain ⟨hw, hRvw⟩ := hvw hv
      exact ⟨hw, ht _ _ _ hRuv hRvw⟩)
    (subblocks n)
    (fun u b hb hu => ⟨(subblockAll_same P u b).nchan.trans hu, hall u b hb hu⟩)
  obtain ⟨-, hR⟩ := hfold { s with chg := false } rfl
  exact ht _ _ _ (hchg s) hR

theorem chan_setChan_other {s : State} {c d : Nat} (x : Chan) (h : d ≠ c) :
    (s.setChan c x).chan d = s.chan d := by
  simp [State.chan, List.getD_eq_getElem?_getD, h.symm]

theorem chSubblock_chan_other (P : Params) (off k : Nat) (s : State) {c d : Nat} (h : d ≠ c) :
    (chSubblock P off k s c).chan d = s.chan d := by
  rcases chSubblock_cases P off k s c with he | ⟨x, w, b, -, -, he⟩ <;> rw [he]
  exact chan_setChan_other x h

/-- Byte `a` lies in none of the words AUDIO[c][0..n-1] of the first `m` channels. -/
def OutsideAudio (m n a : Nat) : Prop :=
  ∀ c j, c < m → j < n → a < audioAddr c j ∨ audioAddr c j + 4 ≤ a

/-- A byte outside every word of a block lies before or after the block. -/
theorem OutsideAudio.block {m n a : Nat} (h : OutsideAudio m n a) {c off k : Nat} (hc : c < m)
    (hk : off + k ≤ n) : a < audioAddr c off ∨ audioAddr c off + 4 * k ≤ a := by
  induction k with
  | zero => omega
  | succ k ih =>
    have hlast := h c (off + k) hc hk
    have hinit := ih (by omega)
    simp only [audioAddr] at hlast hinit ⊢
    omega

/-- `Memory.byteAt_writeFloats_other` for a byte read under other parameters than those of the store: the
bytes stored depend on the store's own, the bytes left alone on neither. -/
theorem Memory.byteAt_writeFloats_outside (P Q : Params) (b : Nat) (vs : List F32) :
    ∀ (d a : Nat) (m : Memory), b < a ∨ a + 4 * vs.length ≤ b →
      (m.writeFloats P d a vs).byteAt Q b = m.byteAt Q b := by
  induction vs with
  | nil => exact fun _ _ _ _ => rfl
  | cons v vs ih =>
    intro d a m h
    rw [List.length_cons] at h
    exact (ih _ _ _ (by omega)).trans (Memory.byteAt_writeWord_other Q m _ (by omega))

theorem chSubblock_byteAt_other (P Q : Params) {off k m n a : Nat} (s : State) {c : Nat} (hc : c < m)
    (hk : off + k ≤ n) (ha : OutsideAudio m n a) :
    (chSubblock P off k s c).mem.byteAt Q a = s.mem.byteAt Q a := by
  rcases chSubblock_cases P off k s c with he | ⟨x, w, b, -, hw, he⟩ <;> rw [he]
  exact Memory.byteAt_writeFloats_outside P Q a w _ _ _ (hw ▸ ha.block hc hk)

end Sys2Proof.Machine
end

section
open Sys2Proof Sys2Proof.Machine

/-- Settles O9, one lemma for each direction. -/
theorem locateIsTheAddressMap : Obligations.LocateIsTheAddressMap := by
  unfold Obligations.LocateIsTheAddressMap
  exact fun a t => ⟨of_locate, fun ⟨ht, ha⟩ => locate_of_mapped ht ha⟩

/-- Settles O10: such an address names nothing, so it is not CMD either, and both accesses fault. -/
theorem badAddressOnlyRecordsBusFault : Obligations.BadAddressOnlyRecordsBusFault := by
  unfold Obligations.BadAddressOnlyRecordsBusFault
  intro s a v rest hbad
  have hl : locate a = none := hbad.elim locate_of_misaligned locate_eq_none_iff.2
  refine ⟨fun hb => step_read_fault hb hl, fun hb => ?_⟩
  rw [step_write_of_not_isCmd hb (isCmd_of_locate_none hl), busWrite_of_locate_none hl]
  rfl

/-- Settles O11: each of these words is read-only. -/
theorem readOnlyWriteOnlyRecordsBusFault : Obligations.ReadOnlyWriteOnlyRecordsBusFault := by
  unfold Obligations.ReadOnlyWriteOnlyRecordsBusFault
  intro s a v rest t ht ha hro hb
  have hiface : ∀ r ∈ [IfaceReg.id, .result, .rate, .nchan, .hwcfg, .anFftlen, .anWarp, .anSpeed,
      .anPmax], (Target.iface r).readOnly = true := by decide
  refine step_write_readOnly hb ht ha ?_
  rcases hro with ⟨r, hr, rfl⟩ | ⟨k, rfl | rfl⟩
  · exact hiface r hr
  · rfl
  · rfl

/-- Settles O24: what each sub-block of an active channel leaves alone, `process` leaves alone. -/
theorem processFrame : Obligations.ProcessFrame := by
  unfold Obligations.ProcessFrame
  intro s n hi hn
  have hok : errorOf (.process n) s = none := by
    rw [errorOf, decide_eq_true (show n ≤ Config.bufMax from hn), commandError_ok hi]
  refine ⟨processSamples Config.params n s, by rw [exec_eq, hok]; rfl,
    (processSamples_same _ n s).eq, fun c hc => ?_, fun P a ha => ?_⟩
  · exact processSamples_rel_active (R := fun u v => v.chan c = u.chan c) (fun _ => rfl)
      (fun _ _ _ h g => g.trans h) (fun _ => rfl) s
      fun u b d _ hd => chSubblock_chan_other _ _ _ u (hd.trans_le hc).ne'
  · exact processSamples_rel_active (R := fun u v => v.mem.byteAt P a = u.mem.byteAt P a)
      (fun _ => rfl) (fun _ _ _ h g => g.trans h) (fun _ => rfl) s
      fun u b d hb hd => chSubblock_byteAt_other _ P u hd hb ha
end

section
/-! The words of commands, field by field (30_encoding.md R110): a word is its three fields, and the match
and mask columns of R115 compare them. -/

namespace Sys2Proof

theorem Word.opc_and (w v : Word) : (w &&& v).opc = w.opc &&& v.opc := by
  simp only [Word.opc, BitVec.toNat_and, Nat.and_div_two_pow, Nat.and_mod_two_pow]

theorem Word.sel_and (w v : Word) : (w &&& v).sel = w.sel &&& v.sel := by
  simp only [Word.sel, BitVec.toNat_and, Nat.and_div_two_pow, Nat.and_mod_two_pow]

theorem Word.imm_and (w v : Word) : (w &&& v).imm = w.imm &&& v.imm := by
  simp only [Word.imm, BitVec.toNat_and, Nat.and_mod_two_pow]

theorem Word.opc_lt (w : Word) : w.opc < 2 ^ 8 := Nat.mod_lt _ (by decide)

theorem Word.sel_lt (w : Word) : w.sel < 2 ^ 4 := Nat.mod_lt _ (by decide)

theorem Word.imm_lt (w : Word) : w.imm < 2 ^ 20 := Nat.mod_lt _ (by decide)

/-- The three fields leave out no bit of the word. -/
theorem Word.packFields_fields (w : Word) : packFields w.opc w.sel w.imm = w := by
  have hw := w.isLt
  apply BitVec.eq_of_toNat_eq
  simp only [packFields, BitVec.toNat_ofNat, Word.opc, Word.sel, Word.imm]
  omega

theorem Word.eq_iff_fields {w v : Word} : w = v ↔ w.opc = v.opc ∧ w.sel = v.sel ∧ w.imm = v.imm := by
  refine ⟨by rintro rfl; exact ⟨rfl, rfl, rfl⟩, fun ⟨hopc, hsel, himm⟩ => ?_⟩
  rw [← w.packFields_fields, hopc, hsel, himm, v.packFields_fields]

theorem reserved_eq_ok {zero : Bool} {i j : Instr} : reserved zero i = .ok j ↔ zero = true ∧ i = j := by
  cases zero <;> simp [reserved]

end Sys2Proof

namespace Sys2Proof.Machine

/-- The match column holds the opcode alone, and every mask covers OPC (30_encoding.md R115). -/
theorem matchMask_fields (i : Instr) :
    i.matchMask.2.opc = 2 ^ 8 - 1 ∧ i.matchMask.1.opc = Laws.opcodeOf i ∧ i.matchMask.1.sel = 0 ∧
      i.matchMask.1.imm = 0 := by
  cases i <;> simp only [Instr.matchMask, Laws.opcodeOf] <;> decide

/-- A row selects the words of its opcode that are 0 under its mask of SEL and of IMM. -/
theorem selects_iff {w : Word} {i : Instr} : w &&& i.matchMask.2 = i.matchMask.1 ↔
    w.opc = Laws.opcodeOf i ∧ w.sel &&& i.matchMask.2.sel = 0 ∧ w.imm &&& i.matchMask.2.imm = 0 := by
  obtain ⟨hmask, hopc, hsel, himm⟩ := matchMask_fields i
  rw [Word.eq_iff_fields, Word.opc_and, Word.sel_and, Word.imm_and, hmask, hopc, hsel, himm,
    Nat.and_two_pow_sub_one_eq_mod, Nat.mod_eq_of_lt w.opc_lt]

/-- The converse of `selImm_lt`. -/
theorem wellFormed_of_selImm_lt {i : Instr} (hs : (selImm i).1 < 2 ^ 4) (hi : (selImm i).2 < 2 ^ 20) :
    i.wellFormed = true := by
  cases i <;> simp_all [Instr.wellFormed, selImm]

/-- A word that decodes has the fields of its command. The cases are the rows with two operands, the words
of no row, and the rows that reserve IMM, both fields, or SEL. -/
theorem fields_of_decode {w : Word} {i : Instr} (h : decode w = .ok i) :
    w.opc = Laws.opcodeOf i ∧ w.sel = (selImm i).1 ∧ w.imm = (selImm i).2 := by
  unfold decode at h
  split at h
  case h_4 hopc | h_10 hopc => cases h; exact ⟨hopc, rfl, rfl⟩
  case h_13 => cases h
  case h_2 hopc =>
    obtain ⟨hzero, rfl⟩ := reserved_eq_ok.1 h
    exact ⟨hopc, rfl, by simpa [selImm] using hzero⟩
  case h_1 hopc | h_7 hopc | h_8 hopc | h_9 hopc =>
    obtain ⟨hzero, rfl⟩ := reserved_eq_ok.1 h
    exact ⟨hopc, by simpa [selImm] using hzero⟩
  case h_3 hopc | h_5 hopc | h_6 hopc | h_11 hopc | h_12 hopc =>
    obtain ⟨hzero, rfl⟩ := reserved_eq_ok.1 h
    exact ⟨hopc, by simpa [selImm] using hzero, rfl⟩

/-- The mask of a row is 0 where the row has an operand. -/
theorem selImm_and_mask (i : Instr) :
    (selImm i).1 &&& i.matchMask.2.sel = 0 ∧ (selImm i).2 &&& i.matchMask.2.imm = 0 := by
  cases i <;> simp [selImm, Instr.matchMask, Word.sel, Word.imm]

/-- The command of the row of `i` with the fields `sel` and `imm` as operands. -/
def withOperands (sel imm : Nat) : Instr → Instr
  | .nop => .nop
  | .init _ => .init sel
  | .process _ => .process imm
  | .anWrite _ _ => .anWrite sel imm
  | .anSkip _ => .anSkip imm
  | .anSetlen _ => .anSetlen imm
  | .anSetwarp => .anSetwarp
  | .anSetspeed => .anSetspeed
  | .anClrpeak => .anClrpeak
  | .respBand _ _ => .respBand sel imm
  | .respLs _ => .respLs imm
  | .respHs _ => .respHs imm

@[simp] theorem matchMask_withOperands (sel imm : Nat) (i : Instr) :
    (withOperands sel imm i).matchMask = i.matchMask := by cases i <;> rfl

@[simp] theorem opcodeOf_withOperands (sel imm : Nat) (i : Instr) :
    Laws.opcodeOf (withOperands sel imm i) = Laws.opcodeOf i := by cases i <;> rfl

theorem eq_zero_of_and_mask {k x m : Nat} (hx : x < 2 ^ k) (hm : m = 2 ^ k - 1) (h : x &&& m = 0) :
    x = 0 := by
  rwa [hm, Nat.and_two_pow_sub_one_eq_mod, Nat.mod_eq_of_lt hx] at h

/-- A field that the row's mask covers is 0, so no operand is lost. -/
theorem selImm_withOperands {sel imm : Nat} {i : Instr} (hs : sel < 2 ^ 4) (hi : imm < 2 ^ 20)
    (hsel : sel &&& i.matchMask.2.sel = 0) (himm : imm &&& i.matchMask.2.imm = 0) :
    selImm (withOperands sel imm i) = (sel, imm) := by
  cases i with
  | anWrite | respBand => rfl
  | init => obtain rfl := eq_zero_of_and_mask hi (m := Word.imm 0xFF0FFFFF) (by decide) himm; rfl
  | process | anSkip | anSetlen | respLs | respHs =>
    obtain rfl := eq_zero_of_and_mask hs (m := Word.sel 0xFFF00000) (by decide) hsel
    rfl
  | nop | anSetwarp | anSetspeed | anClrpeak =>
    obtain rfl := eq_zero_of_and_mask hs (m := Word.sel 0xFFFFFFFF) (by decide) hsel
    obtain rfl := eq_zero_of_and_mask hi (m := Word.imm 0xFFFFFFFF) (by decide) himm
    rfl

/-- The row of a word that decodes selects it. -/
theorem selects_of_decode {w : Word} {i : Instr} (h : decode w = .ok i) :
    w &&& i.matchMask.2 = i.matchMask.1 := by
  obtain ⟨hopc, hsel, himm⟩ := fields_of_decode h
  rw [selects_iff, hsel, himm]
  exact ⟨hopc, selImm_and_mask i⟩

/-- A word that a row selects is the word of that row's command with the word's fields as operands. -/
theorem decode_of_selects {w : Word} {i : Instr} (h : w &&& i.matchMask.2 = i.matchMask.1) :
    decode w = .ok (withOperands w.sel w.imm i) := by
  obtain ⟨hopc, hsel, himm⟩ := selects_iff.1 h
  have hfields := selImm_withOperands w.sel_lt w.imm_lt hsel himm
  have hwf : (withOperands w.sel w.imm i).wellFormed = true :=
    wellFormed_of_selImm_lt (by rw [hfields]; exact w.sel_lt) (by rw [hfields]; exact w.imm_lt)
  have hword : encode (withOperands w.sel w.imm i) = w := by
    rw [encode_eq_packFields, hfields, opcodeOf_withOperands, ← hopc, w.packFields_fields]
  rw [← decode_encode_of_wellFormed hwf, hword]

/-- A write to CMD executes the word (20_memory.md R95). -/
theorem step_write_cmd {s : State} {w : Word} {rest : List BusAccess}
    (hb : s.bus = .write cmdAddr w :: rest) : step s = execute w { s with bus := rest } := by
  rw [step, hb]
  exact if_pos isCmd_cmdAddr

/-- A word that is no command records ILLEGAL_CMD (30_encoding.md R123). -/
theorem execute_of_decode_error {w : Word} {e : Reject} (h : decode w = .error e) (s : State) :
    execute w s = .next (s.raise .illegalCmd) := by
  rw [execute, h]

end Sys2Proof.Machine
end

section
/-! The error a command raises, in terms of the range of its operands (60_exceptions.md R341, R345). -/

namespace Sys2Proof.Machine

/-- A command that needs `init` first has the shared check, of the range of its operands. -/
theorem errorOf_eq_commandError {i : Instr} {s : State} (h : runsBeforeInit i = false) :
    ∃ ok, errorOf i s = s.commandError ok ∧ (ok = true ↔ InRange s i) := by
  cases i with
  | nop | init => cases h
  | process | anWrite | anSkip | anSetlen | anSetwarp | anSetspeed | anClrpeak | respBand | respLs
  | respHs => exact ⟨_, rfl, by simp [InRange]⟩

theorem errorOf_notInit {i : Instr} {s : State} (hs : s.initDone = false)
    (hi : runsBeforeInit i = false) : errorOf i s = some .notInit := by
  obtain ⟨ok, he, -⟩ := errorOf_eq_commandError hi
  rw [he, commandError_notInit hs]

theorem errorOf_badOperand {i : Instr} {s : State} (hs : s.initDone = true ∨ runsBeforeInit i = true)
    (hr : ¬ InRange s i) : errorOf i s = some .badOperand := by
  cases hi : runsBeforeInit i with
  | false =>
    obtain ⟨ok, he, hok⟩ := errorOf_eq_commandError hi
    obtain rfl : ok = false := Bool.eq_false_iff.2 (hok.not.2 hr)
    rw [he, commandError_badOperand (hs.resolve_right (by simp [hi]))]
  | true =>
    cases i with
    | nop => exact absurd trivial hr
    | init nch => exact if_neg hr
    | _ => cases hi

theorem exec_of_errorOf {i : Instr} {s : State} {c : Cause} (h : errorOf i s = some c) :
    exec i s = .next (s.raise c) := by
  rw [exec_eq, h, runCommand_error]

end Sys2Proof.Machine
end

section
/-! What host statements assemble to (30_encoding.md R119 to R121). -/

namespace Sys2Proof.Machine

theorem asmReg_word (r : IfaceReg) : (asmReg r).word = some (BitVec.ofNat 32 r.addr) :=
  if_pos ((IfaceReg.addr_lt r).1.trans (by decide))

theorem asmWrite_reg (r : IfaceReg) {v : AsmValue} {p : Word} (h : v.word = some p) :
    asmWrite (asmReg r) v = some [.write (BitVec.ofNat 32 r.addr) p] := by
  rw [asmWrite, asmReg_word, h]

/-- A write to a register by its name is the write to its address. -/
theorem asmWrite_reg_eq_num (r : IfaceReg) (v : AsmValue) :
    asmWrite (asmReg r) v = asmWrite (.num r.addr) v := by
  have haddr : (AsmAddr.num r.addr).word = (asmReg r).word := rfl
  rw [asmWrite, asmWrite, haddr]

theorem asmCommand_of_wellFormed {i : Instr} (h : i.wellFormed = true) :
    asmCommand i = some [.write cmdAddr (encode i)] := if_pos h

/-- The word of `init`, without its zero IMM. The sum with 0 is rewritten because the kernel, asked to see
that it is the sum without it, counts down from the opcode. -/
theorem encode_init (nch : Nat) : encode (.init nch) = BitVec.ofNat 32 (0x01000000 + nch * 2 ^ 20) := by
  rw [encode, packFields, Nat.add_zero]
  rfl

/-- A command with its operand F: F to ARG0, then the command word to CMD. -/
theorem asm_arg0_command {F : AsmValue} {p : Word} (hF : F.word = some p) {i : Instr}
    (h : i.wellFormed = true) : asmThen (asmWrite (asmReg .arg0) F) (asmCommand i) =
      some [.write 0x00C p, .write 0x008 (encode i)] := by
  rw [asmWrite_reg .arg0 hF, asmCommand_of_wellFormed h]
  rfl

/-- A response command with its operand F: as `asm_arg0_command`, then RESULT is read. -/
theorem asm_arg0_command_result {F : AsmValue} {p : Word} (hF : F.word = some p) {i : Instr}
    (h : i.wellFormed = true) :
    asmThen (asmWrite (asmReg .arg0) F) (asmThen (asmCommand i) (asmRead (asmReg .result))) =
      some [.write 0x00C p, .write 0x008 (encode i), .read 0x010] := by
  rw [asmWrite_reg .arg0 hF, asmCommand_of_wellFormed h]
  rfl

end Sys2Proof.Machine
end

section
open Sys2Proof Sys2Proof.Machine

/-- Settles O1: the encoded word has the fields of the command, and the decoder reads those fields. -/
theorem decodeReadsBackEncode : Obligations.DecodeReadsBackEncode := by
  unfold Obligations.DecodeReadsBackEncode
  exact fun i => decode_encode_of_wellFormed

/-- Settles O2: a word that decodes has the fields of its command, and the fields are the whole word. -/
theorem encodeReadsBackDecode : Obligations.EncodeReadsBackDecode := by
  unfold Obligations.EncodeReadsBackDecode
  intro w i h
  obtain ⟨hopc, hsel, himm⟩ := fields_of_decode h
  exact ⟨by rw [encode_eq_packFields, ← hopc, ← hsel, ← himm, w.packFields_fields],
    wellFormed_of_selImm_lt (hsel ▸ w.sel_lt) (himm ▸ w.imm_lt)⟩

/-- Settles O3, one lemma for each direction. -/
theorem decoderFollowsMatchAndMask : Obligations.DecoderFollowsMatchAndMask := by
  unfold Obligations.DecoderFollowsMatchAndMask
  exact fun w i => ⟨selects_of_decode,
    fun h => ⟨_, decode_of_selects h, matchMask_withOperands _ _ i⟩⟩

/-- Settles O4: the words are decoded as they stand, and what an illegal word does is one lemma. -/
theorem encodingExamples : Obligations.EncodingExamples := by
  unfold Obligations.EncodingExamples
  refine ⟨by decide, fun s w hw => ?_⟩
  obtain rfl | rfl | rfl : w = 0x10100020 ∨ w = 0x02000000 ∨ w = 0x01000001 := by simpa using hw
  · exact execute_of_decode_error (e := .reservedField) (by decide) s
  · exact execute_of_decode_error (e := .undefinedOpcode) (by decide) s
  · exact execute_of_decode_error (e := .reservedField) (by decide) s

/-- Settles O5: such a word decodes to no command, since the row of one would select it. -/
theorem illegalWordOnlyRecordsTheError : Obligations.IllegalWordOnlyRecordsTheError := by
  unfold Obligations.IllegalWordOnlyRecordsTheError
  intro s w rest hb hnone
  rw [step_write_cmd hb]
  cases hd : decode w with
  | ok i => exact absurd (selects_of_decode hd) (hnone i)
  | error e => exact execute_of_decode_error hd _

/-- Settles O16: the check of INIT_DONE comes first, then that of the operands. -/
theorem errorsAreReportedInOrder : Obligations.ErrorsAreReportedInOrder := by
  unfold Obligations.ErrorsAreReportedInOrder
  exact ⟨fun i s hs hi => exec_of_errorOf (errorOf_notInit hs hi),
    fun i s hs hr => exec_of_errorOf (errorOf_badOperand hs hr)⟩

/-- Settles O6: each expansion is a write to ARG0, the command word, and for a response a read. -/
theorem pseudoInstructionsExpand : Obligations.PseudoInstructionsExpand := by
  unfold Obligations.PseudoInstructionsExpand
  refine ⟨fun _ _ => rfl, rfl, asmWrite_reg_eq_num .cmd, fun F p hF =>
    ⟨fun nch hn => ?_, asm_arg0_command hF rfl, asm_arg0_command hF rfl, fun i c hi hc =>
      ⟨?_, ?_, ?_⟩⟩⟩
  · exact encode_init nch ▸ asm_arg0_command hF (i := .init nch) (decide_eq_true hn)
  · exact asm_arg0_command_result hF (i := .respBand i c) (wellFormed_of_selImm_lt hi hc)
  · exact asm_arg0_command_result hF (i := .respLs c) (decide_eq_true hc)
  · exact asm_arg0_command_result hF (i := .respHs c) (decide_eq_true hc)
end

section
/-! What the response commands answer (40_shelf.md R151 to R153; 41_band.md R180, R181): RESULT reads back
as the value the command gives, and the frequency ratio is clamped on either side. -/

namespace Sys2Proof.Machine

/-- A command whose operands are in range has its effect once INIT_DONE is set. -/
theorem exec_of_inRange {i : Instr} {s : State} (hs : s.initDone = true)
    (hi : runsBeforeInit i = false) (hr : InRange s i) : exec i s = .next (effectOf i s) := by
  obtain ⟨ok, he, hok⟩ := errorOf_eq_commandError hi
  rw [exec_eq, he, hok.2 hr, commandError_ok hs, runCommand_ok]

/-- RESULT, read as a value, is the value it was set to. -/
theorem ofWord_setResult (P : Params) (v : F32) (s : State) :
    F32.ofWord (s.setResult P v).result = v := F32.ofWord_toWord v _

/-- A command whose effect is to set RESULT answers that value and leaves all but the draw counter. -/
theorem answers_of_exec_eq_setResult {i : Instr} {s : State} {P : Params} {v : F32}
    (h : exec i s = .next (s.setResult P v)) : ∃ t, exec i s = .next t ∧
      t = { s with result := t.result, draws := t.draws } ∧ F32.ofWord t.result = v :=
  ⟨_, h, rfl, ofWord_setResult P v s⟩

end Sys2Proof.Machine

namespace Sys2Proof.Flt

open Machine

variable {f : Fmt}

theorem isFinite_to64 {a : F32} (h : a.isFinite = true) : a.to64.isFinite = true :=
  (conversionsRoundOnce.1 a h).1

theorem toRat_to64 {a : F32} (h : a.isFinite = true) : a.to64.toRat = a.toRat :=
  (conversionsRoundOnce.1 a h).2.1

theorem to32_to64 {a : F32} (h : a.isFinite = true) : a.to64.to32 = a :=
  (conversionsRoundOnce.1 a h).2.2

theorem sign_to64 {a : F32} (h : a.isFinite = true) : a.to64.sign = a.sign := sign_convert h

@[simp] theorem to64_inf (s : Bool) : (inf s : F32).to64 = inf s := convert_inf s

@[simp] theorem to32_inf (s : Bool) : (inf s : F64).to32 = inf s := convert_inf s

@[simp] theorem to64_zero (s : Bool) : (zero s : F32).to64 = zero s := convert_zero isFormat_b32 s

@[simp] theorem to32_zero (s : Bool) : (zero s : F64).to32 = zero s := convert_zero isFormat_b64 s

/-- Only the zeros share a key. -/
theorem eq_of_key_eq_of_ne_zero {a b : Flt f} (hk : a.key = b.key) (h0 : a.key ≠ 0) : a = b := by
  cases a with
  | nan => exact absurd rfl h0
  | num s m =>
    cases b with
    | nan => exact absurd hk h0
    | num t n =>
      refine eq_of_key_eq rfl rfl hk ?_
      cases s <;> cases t <;> simp only [key, sign] at * <;> omega

theorem isZero_iff_key {a : Flt f} (h : a.isNan = false) : a.isZero = true ↔ a.key = 0 := by
  obtain ⟨s, m, rfl⟩ := eq_num_of_isNan h
  rw [isZero_iff_val, ← Int.natAbs_eq_zero, natAbs_key_num]

theorem isZero_of_le_zero_of_not_lt {a : Flt f} (h : a.le Const.zero = true)
    (hn : ¬a.lt Const.zero = true) : a.isZero = true := by
  obtain ⟨ha, h0, hk⟩ := le_iff.1 h
  refine (isZero_iff_key ha).2 (le_antisymm (hk.trans_eq key_zero) ?_)
  exact key_zero (f := f) ▸ not_lt.1 fun hlt => hn (lt_iff.2 ⟨ha, h0, hlt⟩)

theorem sign_of_neg {a : Flt f} (h : a.lt Const.zero = true) : a.sign = true := by
  obtain ⟨ha, -, hk⟩ := lt_iff.1 h
  obtain ⟨s, m, rfl⟩ := eq_num_of_isNan ha
  cases s with
  | true => rfl
  | false =>
    rw [key_zero] at hk
    simp only [key] at hk
    omega

protected theorem lt_of_le_of_lt {a b c : Flt f} (hab : a.le b = true) (hbc : b.lt c = true) :
    a.lt c = true := by
  obtain ⟨ha, -, hk⟩ := le_iff.1 hab
  obtain ⟨-, hc, hk'⟩ := lt_iff.1 hbc
  exact lt_iff.2 ⟨ha, hc, hk.trans_lt hk'⟩

theorem eq_zero_of_isZero {a : Flt f} (h : a.isZero = true) : a = zero a.sign := by
  cases a with
  | nan => cases h
  | num s m => rw [zero_eq, sign, Fin.ext (a := m) (b := 0) ((isZero_iff_val s m).1 h)]

/-- A value from an upper bound on that is no zero is clamped to that bound. -/
theorem clamp_of_ge {v lo hi : Flt f} (hb : lo.le hi = true) (h0 : hi.key ≠ 0) (h : hi.le v = true) :
    v.clamp lo hi = hi := by
  obtain ⟨hhi, hv, hk⟩ := le_iff.1 h
  rcases hk.lt_or_eq with hlt | heq
  · exact clamp_of_gt hb (lt_iff.2 ⟨hhi, hv, hlt⟩)
  · obtain rfl := eq_of_key_eq_of_ne_zero heq h0
    exact clamp_of_le_le hb h

end Sys2Proof.Flt

namespace Sys2Proof.Machine

/-- A valid rate (46_control.md R322) is a positive number up to RATE_MAX, in either format. -/
theorem rateOk_pos {rate : F32} (h : rateOk rate = true) : rate.isFinite = true ∧
    Const.zero.lt rate.to64 = true ∧ 0 < rate.toRat ∧ rate.toRat ≤ Const.rateMax.toRat := by
  obtain ⟨⟨hf, hmin⟩, hmax⟩ : (rate.isFinite = true ∧ Const.rateMin.le rate = true) ∧
      rate.le Const.rateMax = true := by simpa [rateOk, Flt.ge] using h
  exact ⟨hf, Flt.lt_of_lt_of_le (b := Const.rateMin.to64) (by decide)
      (Flt.convert_le_convert isFormat_b64 (by decide) hf hmin),
    Flt.toRat_pos isFormat_b32 hf (Flt.lt_of_lt_of_le (b := Const.rateMin) (by decide) hmin),
    Flt.toRat_le_of_le hf (by decide) hmax⟩

/-- The frequency ratio of a response command, before it is clamped (40_shelf.md R153). -/
def respRatio (F rate : F32) : F64 := F.to64.div rate.to64

theorem respAngle_eq (F rate : F32) :
    respAngle F rate = Const.twoPi.mul ((respRatio F rate).clamp Const.zero Const.half) := rfl

theorem respRatio_isNan {F : F32} (rate : F32) (hF : F.isNan = true) : (respRatio F rate).isNan = true := by
  rw [respRatio, Flt.eq_nan_of_isNan hF]
  rfl

section
variable {F rate : F32} (hr : rateOk rate = true)
include hr

theorem rounded_respRatio (hF : F.isFinite = true) :
    Rounded (F.toRat / rate.toRat) (respRatio F rate) := by
  obtain ⟨hrf, hpos, -⟩ := rateOk_pos hr
  rw [← Flt.toRat_to64 hF, ← Flt.toRat_to64 hrf]
  exact Flt.rounded_div isFormat_b64 (Flt.isFinite_to64 hF) (Flt.isFinite_to64 hrf)
    (Flt.isZero_of_pos hpos)

theorem respRatio_inf (s : Bool) : respRatio (Flt.inf s) rate = Flt.inf s := by
  obtain ⟨hrf, hpos, -⟩ := rateOk_pos hr
  rw [respRatio, Flt.to64_inf, Flt.inf_div_of_isFinite s (Flt.isFinite_to64 hrf),
    Flt.sign_of_pos hpos, Bool.xor_false]

theorem respRatio_zero (s : Bool) : respRatio (Flt.zero s) rate = Flt.zero s := by
  obtain ⟨hrf, hpos, -⟩ := rateOk_pos hr
  rw [respRatio, Flt.to64_zero, Flt.div_of_isZero (by cases s <;> decide) (Flt.isFinite_to64 hrf)
    (by cases s <;> decide) (Flt.isZero_of_pos hpos), Flt.sign_of_pos hpos, Bool.xor_false]
  rfl

/-- A negative frequency has a negative ratio: even the least magnitude over the greatest rate is not
rounded to zero. -/
theorem respRatio_neg (hF : F.lt Const.zero = true) : (respRatio F rate).lt Const.zero = true := by
  obtain ⟨hFn, -, hk⟩ := Flt.lt_iff.1 hF
  by_cases hfin : F.isFinite = true
  · obtain ⟨-, -, hrate, hmax⟩ := rateOk_pos hr
    have hleast : F.toRat ≤ (.num true 1 : F32).toRat :=
      (Flt.toRat_le_iff hfin (by decide)).2 (Int.le_sub_one_of_lt hk)
    have hneg : (.num true 1 : F32).toRat < 0 := Flt.toRat_zero isFormat_b32 ▸
      (Flt.toRat_lt_iff (by decide) (Flt.isFinite_zero isFormat_b32)).2 (by decide)
    have hle : F.toRat / rate.toRat ≤ (.num true 1 : F32).toRat / Const.rateMax.toRat :=
      (div_le_div_iff₀ hrate (hrate.trans_le hmax)).2
        ((mul_le_mul_of_nonneg_right hleast (hrate.trans_le hmax).le).trans
          (mul_le_mul_of_nonpos_left hmax hneg.le))
    exact Flt.lt_of_le_of_lt
      (Flt.le_of_rounded (rounded_respRatio hr hfin) (rounded_respRatio (by decide) (by decide)) hle)
      (by decide)
  · have hsign : F.sign = true := Flt.sign_of_neg hF
    rw [Flt.eq_inf_of_not_isFinite hFn hfin, respRatio_inf hr, hsign]
    decide

/-- A frequency from half the rate on has a ratio from a half on. -/
theorem half_le_respRatio (hF : F.isFinite = true) (h : rate.toRat ≤ 2 * F.toRat) :
    Const.half.le (respRatio F rate) = true := by
  obtain ⟨-, -, hrate, -⟩ := rateOk_pos hr
  have hhalf : Rounded (1 / 2) (Const.half : F64) := by
    simpa [Const.half, Flt.ofDec] using
      Flt.rounded_ofQuot isFormat_b64 false 1 (b := 2) two_ne_zero 0
  exact Flt.le_of_rounded hhalf (rounded_respRatio hr hF)
    ((div_le_div_iff₀ two_pos hrate).2 (by linarith))
end

end Sys2Proof.Machine
end

section
open Sys2Proof Sys2Proof.Machine

/-- Settles O42: with operands in range each command sets RESULT and nothing else. -/
theorem respCommandsAnswerTheResponse : Obligations.RespCommandsAnswerTheResponse := by
  unfold Obligations.RespCommandsAnswerTheResponse
  exact fun s c hs hc =>
    ⟨fun i hi => answers_of_exec_eq_setResult (exec_of_inRange (i := .respBand i c) hs rfl ⟨hi, hc⟩),
      answers_of_exec_eq_setResult (exec_of_inRange (i := .respLs c) hs rfl hc),
      answers_of_exec_eq_setResult (exec_of_inRange (i := .respHs c) hs rfl hc)⟩

/-- Settles O43: the sign of the frequency is that of the ratio, and no bound of the clamp is passed. -/
theorem respFrequencyIsClamped : Obligations.RespFrequencyIsClamped := by
  unfold Obligations.RespFrequencyIsClamped
  intro F rate hr
  have hbelow : F.isNan = true ∨ F.lt Const.zero = true →
      respAngle F rate = Const.twoPi.mul Const.zero := fun h => by
    rw [respAngle_eq, Flt.clamp_of_isNan_or_lt (h.imp (respRatio_isNan rate) (respRatio_neg hr))]
  refine ⟨fun h => ?dc, hbelow, fun h => ?nyquist⟩
  case dc =>
    by_cases hlt : F.isNan = true ∨ F.lt Const.zero = true
    · rw [hbelow hlt]
      decide
    · obtain ⟨hn, hneg⟩ := not_or.1 hlt
      have hz : F.isZero = true := Flt.isZero_of_le_zero_of_not_lt (h.resolve_left hn) hneg
      rw [respAngle_eq, Flt.eq_zero_of_isZero hz, respRatio_zero hr]
      cases F.sign <;> decide
  case nyquist =>
    refine congrArg (Flt.mul Const.twoPi) (Flt.clamp_of_ge (by decide) (by decide) ?_)
    rcases h with rfl | ⟨hF, hle⟩
    · rw [← respRatio, respRatio_inf hr]
      decide
    · exact half_le_respRatio hr hF hle
end

section
/-! Exact operations (00_scope.md R12): a product by 1.0 and a sum with a zero keep the value, and equal
products cancel. The binary64 products of a binary32 sample by a coefficient up to 2 do not overflow. -/

namespace Sys2Proof.Flt

open Machine

variable {f : Fmt}

theorem toRat_ne_zero_iff (hf : IsFormat f) {a : Flt f} (h : a.isFinite = true) :
    a.toRat ≠ 0 ↔ a.key ≠ 0 := by
  rw [← toRat_zero hf, Ne, toRat_eq_iff h (isFinite_zero hf), key_zero]

/-- What is rounded from a value of the format is that value, if the signs agree. -/
theorem eq_of_rounded_toRat (hf : IsFormat f) {a r : Flt f} (h : Rounded a.toRat r)
    (ha : a.isFinite = true) (hs : r.sign = a.sign) : r = a := by
  have hlt := abs_toRat_lt hf ha
  have hr := isFinite_of_rounded h hlt
  exact eq_of_key_eq (isNan_of_isFinite hr) (isNan_of_isFinite ha)
    ((toRat_eq_iff hr ha).1 (toRat_eq_of_rounded h ha hlt)) hs

/-- Of a value other than zero the sign is known. -/
theorem eq_of_rounded_toRat_of_ne_zero (hf : IsFormat f) {a r : Flt f} (h : Rounded a.toRat r)
    (ha : a.isFinite = true) (h0 : a.toRat ≠ 0) : r = a :=
  eq_of_rounded_toRat hf h ha ((h.1 h0).trans ((rounded_self hf ha).1 h0).symm)

theorem toRat_eq_of_rounded_eq {x : Rat} {a b : Flt f} (ha : Rounded x a) (hb : Rounded x b)
    (haf : a.isFinite = true) (hbf : b.isFinite = true) : a.toRat = b.toRat :=
  le_antisymm (toRat_le_of_rounded ha hb haf hbf le_rfl) (toRat_le_of_rounded hb ha hbf haf le_rfl)

theorem sign_mul {a b : Flt f} (ha : a.isFinite = true) (hb : b.isFinite = true) :
    (a.mul b).sign = (a.sign ^^ b.sign) := by
  obtain ⟨s, m, hm, rfl⟩ := eq_num_of_isFinite ha
  obtain ⟨t, n, hn, rfl⟩ := eq_num_of_isFinite hb
  rw [mul, if_neg (not_or.2 ⟨hm, hn⟩), sign_round]
  rfl

theorem toRat_one : (Const.one : F64).toRat = 1 := by
  have h : (Const.one : F64) = .num false ⟨0x3FF0000000000000, by decide⟩ := by decide
  rw [h, toRat_num_eq (by decide), show sig _ _ = 2 ^ 52 by decide, show expo _ _ = -52 by decide]
  norm_num

theorem toRat_two : (Const.two : F64).toRat = 2 := by
  have h : (Const.two : F64) = .num false ⟨0x4000000000000000, by decide⟩ := by decide
  rw [h, toRat_num_eq (by decide), show sig _ _ = 2 ^ 52 by decide, show expo _ _ = -51 by decide]
  norm_num

theorem one_mul_of_isFinite {a : F64} (h : a.isFinite = true) : Const.one.mul a = a := by
  have h1 : (Const.one : F64).isFinite = true := by decide
  have hr := rounded_mul isFormat_b64 h1 h
  rw [toRat_one, one_mul] at hr
  refine eq_of_rounded_toRat isFormat_b64 hr h ?_
  rw [sign_mul h1 h, show (Const.one : F64).sign = false by decide, Bool.false_xor]

theorem isFinite_of_isZero (hf : IsFormat f) {a : Flt f} (h : a.isZero = true) :
    a.isFinite = true := by
  rw [eq_zero_of_isZero h]
  exact isFinite_ofMag (Nat.pos_of_ne_zero hf.infMag_ne_zero)

theorem toRat_of_isZero (hf : IsFormat f) {a : Flt f} (h : a.isZero = true) : a.toRat = 0 := by
  have ha := isFinite_of_isZero hf h
  rw [← toRat_zero hf, toRat_eq_iff ha (isFinite_zero hf), key_zero]
  exact (isZero_iff_key (isNan_of_isFinite ha)).1 h

theorem isZero_of_toRat_eq_zero (hf : IsFormat f) {a : Flt f} (ha : a.isFinite = true)
    (h : a.toRat = 0) : a.isZero = true :=
  (isZero_iff_key (isNan_of_isFinite ha)).2 (not_not.1 (mt (toRat_ne_zero_iff hf ha).2 (not_not.2 h)))

theorem isZero_of_toRat_ne_zero (hf : IsFormat f) {a : Flt f} (h : a.toRat ≠ 0) : a.isZero = false :=
  Bool.eq_false_iff.2 fun hz => h (toRat_of_isZero hf hz)

/-- A sum with a zero is the other operand, or +0.0 in place of -0.0. -/
theorem add_of_isZero (hf : IsFormat f) {a z : Flt f} (ha : a.isFinite = true)
    (hz : z.isZero = true) : a.add z = a ∨ (a = zero true ∧ a.add z = zero false) := by
  have hzf := isFinite_of_isZero hf hz
  have hz0 := toRat_of_isZero hf hz
  by_cases h0 : a.toRat = 0
  · have haz := eq_zero_of_isZero (isZero_of_toRat_eq_zero hf ha h0)
    rw [add_of_toRat_add_eq_zero ha hzf (by rw [h0, hz0, add_zero])]
    cases hs : a.sign <;> cases z.sign <;> rw [hs] at haz <;> simp [haz]
  · have hr := rounded_add hf ha hzf
    rw [hz0, add_zero] at hr
    exact .inl (eq_of_rounded_toRat_of_ne_zero hf hr ha h0)

/-- Finite operands of one value cancel to a zero. -/
theorem sub_of_toRat_eq {a b : Flt f} (ha : a.isFinite = true) (hb : b.isFinite = true)
    (h : a.toRat = b.toRat) : a.sub b = zero (a.sign && !b.sign) := by
  rw [← sign_neg (isNan_of_isFinite hb)]
  exact add_of_toRat_add_eq_zero ha (by rwa [isFinite_neg]) (by rw [toRat_neg, h, add_neg_cancel])

theorem toRat_abs (a : Flt f) : a.abs.toRat = |a.toRat| := by
  cases a with
  | nan => simp [abs, toRat]
  | num s m =>
    by_cases h : m.val = f.infMag
    · simp [abs, toRat, h]
    · have h0 : (0 : Rat) ≤ sig f m * 2 ^ expo f m := by positivity
      rw [abs, toRat_num_eq h, toRat_num_eq h, abs_mul, abs_of_nonneg h0]
      cases s <;> simp

/-- A magnitude up to a finite bound is finite. -/
theorem isFinite_and_le_of_abs_le (hf : IsFormat f) {a B : Flt f} (hB : B.isFinite = true)
    (h : a.abs.le B = true) : a.isFinite = true ∧ |a.toRat| ≤ B.toRat := by
  have h0 : (Const.zero : Flt f).le a.abs = true :=
    le_iff.2 ⟨rfl, (le_iff.1 h).1, by rw [key_zero, key_abs]; exact abs_nonneg _⟩
  have ha := isFinite_of_le_le (isFinite_zero hf) hB h0 h
  refine ⟨?_, toRat_abs a ▸ toRat_le_of_le ha hB h⟩
  cases a <;> exact ha

theorem eq_iff {a b : Flt f} :
    a.eq b = true ↔ a.isNan = false ∧ b.isNan = false ∧ a.key = b.key := by simp [eq, and_assoc]

theorem two_mul_overflowBound_b32_le : 2 * overflowBound Fmt.b32 ≤ overflowBound Fmt.b64 := by
  have h32 := overflowBound_lt_two_pow isFormat_b32
  have h64 := two_pow_topExpo_le_overflowBound isFormat_b64
  have hle : (2 : ℝ) ^ (topExpo Fmt.b32 + 1) ≤ 2 ^ (topExpo Fmt.b64 - 1) :=
    zpow_le_zpow_right₀ one_le_two (by decide)
  rw [zpow_add_one₀ two_ne_zero] at hle
  have : 2 * (overflowBound Fmt.b32 : ℝ) ≤ overflowBound Fmt.b64 := by linarith
  exact_mod_cast this

/-- A coefficient up to 2 times a value of binary32's range is finite in binary64. -/
theorem isFinite_coeff_mul {c x : F64} (hc : c.abs.le Const.two = true) (hx : x.isFinite = true)
    (hb : |x.toRat| < overflowBound Fmt.b32) : (c.mul x).isFinite = true := by
  obtain ⟨hcf, hc2⟩ := isFinite_and_le_of_abs_le isFormat_b64 (by decide) hc
  rw [toRat_two] at hc2
  refine isFinite_of_rounded (rounded_mul isFormat_b64 hcf hx) ?_
  have := two_mul_overflowBound_b32_le
  rw [abs_mul]
  nlinarith [abs_nonneg c.toRat, abs_nonneg x.toRat]

end Sys2Proof.Flt
end

section
/-! A shelf with identity coefficients (40_shelf.md R148, R149, R154): on finite samples both feedback
differences cancel to zeros, so the registers stay zero and the sample comes back; a NaN or an infinity
makes both differences a NaN, which stays. -/

namespace Sys2Proof.Machine

section scanBlock
variable {σ α β : Type} (f : σ → α → σ × β)

theorem scanBlock_append (xs ys : List α) : ∀ st, scanBlock f st (xs ++ ys) =
    ((scanBlock f (scanBlock f st xs).1 ys).1,
      (scanBlock f st xs).2 ++ (scanBlock f (scanBlock f st xs).1 ys).2) := by
  induction xs with
  | nil => exact fun st => rfl
  | cons x xs ih => exact fun st => by simp [scanBlock, ih]

/-- A state that every sample of the block keeps. -/
theorem scanBlock_of_fixed {st : σ} {g : α → β} {xs : List α}
    (h : ∀ x ∈ xs, f st x = (st, g x)) : scanBlock f st xs = (st, xs.map g) := by
  induction xs with
  | nil => rfl
  | cons x xs ih =>
    rw [List.forall_mem_cons] at h
    rw [scanBlock, h.1]
    simp only
    rw [ih h.2, List.map_cons]

end scanBlock

/-- The identity coefficients of 40_shelf.md R154 item 1. -/
structure Shelf.IsIdentity (S : Shelf) : Prop where
  b0_eq : S.b0 = Const.one
  b1_eq : S.b1.eq S.a1 = true
  b2_eq : S.b2 = S.a2
  b1_le : S.b1.abs.le Const.two = true
  b2_le : S.b2.abs.le Const.two = true

/-- The shelf with other registers. -/
def Shelf.withRegs (S : Shelf) (u v : F64) : Shelf := { S with z1 := u, z2 := v }

theorem Shelf.withRegs_self (S : Shelf) : S.withRegs S.z1 S.z2 = S := rfl

/-- The output of the recursion before it is narrowed (40_shelf.md R148). -/
def Shelf.response (S : Shelf) (x : F64) : F64 := (S.b0.mul x).add S.z1

theorem Shelf.sample_eq (S : Shelf) (v : F32) : S.sample v =
    (S.withRegs (((S.b1.mul v.to64).sub (S.a1.mul (S.response v.to64))).add S.z2)
      ((S.b2.mul v.to64).sub (S.a2.mul (S.response v.to64))), (S.response v.to64).to32) := rfl

/-- A sample comes back: the value of y is that of x, of which -0.0 and +0.0 are one. -/
def PassesAsValue (x y : F32) : Prop := y = x ∨ (x = Flt.zero true ∧ y = f32Zero)

theorem flush_zero (n : Bool) : flush (Flt.zero n : F64) = f64Zero := by cases n <;> decide

/-- Products of coefficients and samples that agree in value cancel. -/
theorem sub_coeff_mul {b a x y : F64} (hb : b.abs.le Const.two = true)
    (ha : a.abs.le Const.two = true) (hba : b.toRat = a.toRat) (hx : x.isFinite = true)
    (hy : y.isFinite = true) (hxy : y.toRat = x.toRat) (hlt : |x.toRat| < overflowBound Fmt.b32) :
    (b.mul x).sub (a.mul y) = Flt.zero ((b.mul x).sign && !(a.mul y).sign) := by
  have hbf := (Flt.isFinite_and_le_of_abs_le isFormat_b64 (by decide) hb).1
  have haf := (Flt.isFinite_and_le_of_abs_le isFormat_b64 (by decide) ha).1
  have hbx := Flt.isFinite_coeff_mul hb hx hlt
  have hay := Flt.isFinite_coeff_mul ha hy (hxy ▸ hlt)
  have hr := Flt.rounded_mul isFormat_b64 haf hy
  rw [← hba, hxy] at hr
  exact Flt.sub_of_toRat_eq hbx hay
    (Flt.toRat_eq_of_rounded_eq (Flt.rounded_mul isFormat_b64 hbf hx) hr hbx hay)

theorem zero_add_zero (s t : Bool) : (Flt.zero s : F64).add (Flt.zero t) = Flt.zero (s && t) := by
  cases s <;> cases t <;> decide

/-- Coefficients of one value times an infinity are NaNs or the same infinity, and differ by a NaN. -/
theorem sub_coeff_mul_inf {b a : F64} (h : b.eq a = true) (s : Bool) :
    (b.mul (Flt.inf s)).sub (a.mul (Flt.inf s)) = .nan := by
  obtain ⟨hb, ha, hk⟩ := Flt.eq_iff.1 h
  by_cases h0 : b.isZero = true
  · rw [Flt.mul_inf_of_number isFormat_b64 s hb, if_pos h0]
    rfl
  · obtain rfl := Flt.eq_of_key_eq_of_ne_zero hk (mt (Flt.isZero_iff_key hb).2 h0)
    rw [Flt.mul_inf_of_number isFormat_b64 s hb, if_neg h0, Flt.sub, Flt.neg_inf, Flt.inf_add_inf]
    simp

theorem nan_of_operand {a b : F64} (h : a = .nan ∨ b = .nan) :
    a.add b = .nan ∧ a.sub b = .nan ∧ a.mul b = .nan := by
  obtain ⟨hadd, hsub, hmul, -⟩ := Flt.nan_operand (h.imp (congrArg Flt.isNan) (congrArg Flt.isNan))
  exact ⟨hadd, hsub, hmul⟩

/-- A NaN response goes into both registers and out of the section. -/
theorem Shelf.sample_of_response_nan {S : Shelf} {x : F32} (h : S.response x.to64 = .nan) :
    S.sample x = (S.withRegs .nan .nan, .nan) := by
  have hz : ∀ b a : F64, (b.mul x.to64).sub (a.mul .nan) = .nan := fun b a =>
    (nan_of_operand (.inr (nan_of_operand (.inr rfl)).2.2)).2.1
  rw [Shelf.sample_eq, h, hz, hz]
  rfl

/-- A NaN in the first register stays, and every sample becomes one. -/
theorem Shelf.sample_of_nan {S : Shelf} (h1 : S.z1 = .nan) (x : F32) :
    S.sample x = (S.withRegs .nan .nan, .nan) :=
  Shelf.sample_of_response_nan (nan_of_operand (.inr h1)).1

section identity
variable {S : Shelf} (hS : S.IsIdentity)
include hS

theorem Shelf.IsIdentity.withRegs (u v : F64) : (S.withRegs u v).IsIdentity :=
  ⟨hS.b0_eq, hS.b1_eq, hS.b2_eq, hS.b1_le, hS.b2_le⟩

/-- The first coefficients have one value, and so are bounded alike. -/
theorem Shelf.IsIdentity.a1_spec : S.a1.abs.le Const.two = true ∧ S.b1.toRat = S.a1.toRat := by
  obtain ⟨hb, ha, hk⟩ := Flt.eq_iff.1 hS.b1_eq
  have ha1 : S.a1.abs.le Const.two = true := by
    obtain ⟨-, h2, hle⟩ := Flt.le_iff.1 hS.b1_le
    refine Flt.le_iff.2 ⟨by rwa [Flt.isNan_abs], h2, ?_⟩
    rwa [Flt.key_abs, ← hk, ← Flt.key_abs]
  have hbf := (Flt.isFinite_and_le_of_abs_le isFormat_b64 (by decide) hS.b1_le).1
  have haf := (Flt.isFinite_and_le_of_abs_le isFormat_b64 (by decide) ha1).1
  exact ⟨ha1, (Flt.toRat_eq_iff hbf haf).2 hk⟩

theorem Shelf.IsIdentity.response_eq {x : F64} (hx : x.isFinite = true) :
    S.response x = x.add S.z1 := by
  rw [Shelf.response, hS.b0_eq, Flt.one_mul_of_isFinite hx]

/-- With a zero in the register the response is the sample, or +0.0 in place of -0.0. -/
theorem Shelf.IsIdentity.response_cases {x : F64} (hx : x.isFinite = true)
    (h1 : S.z1.isZero = true) :
    S.response x = x ∨ (x = Flt.zero true ∧ S.response x = Flt.zero false) := by
  rw [hS.response_eq hx]
  exact Flt.add_of_isZero isFormat_b64 hx h1

theorem Shelf.IsIdentity.response_to64 {x : F32} (hx : x.isFinite = true)
    (h1 : S.z1.isZero = true) : S.response x.to64 = x.to64 ∨
      (x = Flt.zero true ∧ S.response x.to64 = Flt.zero false) := by
  refine (hS.response_cases (Flt.isFinite_to64 hx) h1).imp_right fun ⟨hz, hr⟩ => ⟨?_, hr⟩
  rw [← Flt.to32_to64 hx, hz, Flt.to32_zero]

/-- The differences of 40_shelf.md R148 on a finite sample: both cancel, the second to +0.0 where the
response is the sample. -/
theorem Shelf.IsIdentity.differences {x : F32} (hx : x.isFinite = true) (h1 : S.z1.isZero = true) :
    ∃ p q, (S.b1.mul x.to64).sub (S.a1.mul (S.response x.to64)) = Flt.zero p ∧
      (S.b2.mul x.to64).sub (S.a2.mul (S.response x.to64)) = Flt.zero q ∧
      (S.response x.to64 = x.to64 → q = false) := by
  have hxf := Flt.isFinite_to64 hx
  have hlt : |x.to64.toRat| < overflowBound Fmt.b32 :=
    Flt.toRat_to64 hx ▸ Flt.abs_toRat_lt isFormat_b32 hx
  obtain ⟨hyf, hy⟩ : (S.response x.to64).isFinite = true ∧
      (S.response x.to64).toRat = x.to64.toRat := by
    rcases hS.response_to64 hx h1 with hy | ⟨rfl, hy⟩ <;> rw [hy]
    · exact ⟨hxf, rfl⟩
    · rw [Flt.to64_zero]
      exact ⟨by decide, by simp [Flt.toRat_of_isZero isFormat_b64 (a := Flt.zero _) rfl]⟩
  obtain ⟨ha1, hba⟩ := hS.a1_spec
  refine ⟨_, _, sub_coeff_mul hS.b1_le ha1 hba hxf hyf hy hlt,
    sub_coeff_mul hS.b2_le (hS.b2_eq ▸ hS.b2_le) (by rw [hS.b2_eq]) hxf hyf hy hlt, fun he => ?_⟩
  rw [he, hS.b2_eq, Bool.and_not_self]

theorem Shelf.IsIdentity.sample_finite {x : F32} (hx : x.isFinite = true)
    (h1 : S.z1.isZero = true) (h2 : S.z2.isZero = true) :
    (∃ n m, (S.sample x).1 = S.withRegs (Flt.zero n) (Flt.zero m)) ∧
      PassesAsValue x (S.sample x).2 := by
  obtain ⟨p, q, hp, hq, -⟩ := hS.differences hx h1
  rw [Shelf.sample_eq, hp, hq, Flt.eq_zero_of_isZero h2, zero_add_zero]
  refine ⟨⟨_, _, rfl⟩, ?_⟩
  rcases hS.response_to64 hx h1 with hy | ⟨hx0, hy⟩
  · exact .inl (by rw [hy, Flt.to32_to64 hx])
  · exact .inr ⟨hx0, by rw [hy, Flt.to32_zero]; rfl⟩

/-- From registers +0.0 a finite sample other than -0.0 changes nothing. -/
theorem Shelf.IsIdentity.sample_fixed {x : F32} (hx : x.isFinite = true) (h0 : x ≠ Flt.zero true)
    (h1 : S.z1 = f64Zero) (h2 : S.z2 = f64Zero) : S.sample x = (S, x) := by
  have hz1 : S.z1.isZero = true := by rw [h1]; rfl
  have hy := (hS.response_to64 hx hz1).resolve_right fun h => h0 h.1
  obtain ⟨p, q, hp, hq, hfalse⟩ := hS.differences hx hz1
  rw [Shelf.sample_eq, hp, hq, hfalse hy, h2, show f64Zero = Flt.zero false from rfl, zero_add_zero,
    Bool.and_false, hy, Flt.to32_to64 hx]
  conv_rhs => rw [← S.withRegs_self, h1, h2]
  rfl

theorem Shelf.IsIdentity.sample_neg_zero (h1 : S.z1 = f64Zero) :
    (S.sample (Flt.zero true)).2 = f32Zero := by
  have hout : ((Flt.zero true : F32).to64.add f64Zero).to32 = f32Zero := by decide
  rw [Shelf.sample_eq, hS.response_eq (by decide), h1, hout]

/-- A NaN or an infinity comes back, and leaves a NaN in both registers (R379). -/
theorem Shelf.IsIdentity.sample_not_finite {x : F32} (hx : x.isFinite = false)
    (h1 : S.z1.isZero = true) : S.sample x = (S.withRegs .nan .nan, x) := by
  by_cases hn : x.isNan = true
  · obtain rfl := Flt.eq_nan_of_isNan hn
    exact Shelf.sample_of_response_nan (nan_of_operand (.inl (nan_of_operand (.inr rfl)).2.2)).1
  · have hinf := Flt.eq_inf_of_not_isFinite (Bool.not_eq_true _ ▸ hn) (by simp [hx])
    have hx64 : x.to64 = Flt.inf x.sign := by
      conv_lhs => rw [hinf, Flt.to64_inf]
    have hb2 : S.b2.eq S.a2 = true := by
      have hnum : S.b2.isNan = false := S.b2.isNan_abs ▸ (Flt.le_iff.1 hS.b2_le).1
      exact hS.b2_eq ▸ Flt.eq_iff.2 ⟨hnum, hnum, rfl⟩
    have hmul : ∀ s, (Const.one : F64).mul (Flt.inf s) = Flt.inf s := by decide
    have hy : S.response x.to64 = Flt.inf x.sign := by
      rw [Shelf.response, hS.b0_eq, hx64, hmul,
        Flt.inf_add_of_isFinite _ (Flt.isFinite_of_isZero isFormat_b64 h1)]
    rw [Shelf.sample_eq, hy, hx64, sub_coeff_mul_inf hS.b1_eq, sub_coeff_mul_inf hb2, Flt.to32_inf,
      ← hinf]
    rfl

/-- A block of finite samples comes back sample by sample, and leaves zeros in the registers. -/
theorem Shelf.IsIdentity.apply_finite {w : List F32} (h1 : S.z1.isZero = true)
    (h2 : S.z2.isZero = true) (hw : ∀ x ∈ w, x.isFinite = true) :
    List.Forall₂ PassesAsValue w (S.apply w).2 ∧
      ∃ n m, (S.apply w).1 = S.withRegs (Flt.zero n) (Flt.zero m) := by
  induction w generalizing S with
  | nil =>
    refine ⟨.nil, S.z1.sign, S.z2.sign, ?_⟩
    rw [← Flt.eq_zero_of_isZero h1, ← Flt.eq_zero_of_isZero h2]
    rfl
  | cons x w ih =>
    rw [List.forall_mem_cons] at hw
    obtain ⟨⟨n, m, hst⟩, hout⟩ := hS.sample_finite hw.1 h1 h2
    obtain ⟨hrest, n', m', hend⟩ := ih (hS.withRegs (Flt.zero n) (Flt.zero m)) rfl rfl hw.2
    rw [← hst] at hrest hend
    exact ⟨.cons hout hrest, n', m', hend.trans (by rw [hst]; rfl)⟩

/-- From the first NaN or infinity on every sample is a NaN. -/
theorem Shelf.IsIdentity.apply_not_finite {x : F32} (hx : x.isFinite = false)
    (h1 : S.z1.isZero = true) (v : List F32) :
    S.apply (x :: v) = (S.withRegs .nan .nan, x :: List.replicate v.length .nan) := by
  have hrest : (S.withRegs .nan .nan).apply v =
      (S.withRegs .nan .nan, v.map fun _ => .nan) :=
    scanBlock_of_fixed _ fun y _ => Shelf.sample_of_nan rfl y
  rw [List.map_const'] at hrest
  rw [Shelf.apply, scanBlock, hS.sample_not_finite hx h1]
  simp only
  rw [← Shelf.apply, hrest]

/-- From registers +0.0 a block of finite samples without -0.0 changes nothing. -/
theorem Shelf.IsIdentity.apply_fixed {w : List F32} (h1 : S.z1 = f64Zero) (h2 : S.z2 = f64Zero)
    (hw : ∀ x ∈ w, x.isFinite = true) (h0 : ∀ x ∈ w, x ≠ Flt.zero true) : S.apply w = (S, w) := by
  have h := scanBlock_of_fixed Shelf.sample (st := S) (g := id)
    fun x hx => hS.sample_fixed (hw x hx) (h0 x hx) h1 h2
  rwa [List.map_id] at h

end identity

theorem Shelf.apply_append (S : Shelf) (w v : List F32) : S.apply (w ++ v) =
    (((S.apply w).1.apply v).1, (S.apply w).2 ++ ((S.apply w).1.apply v).2) :=
  scanBlock_append Shelf.sample w v S

theorem Shelf.flushed_withRegs_zero (S : Shelf) (n m : Bool) :
    (S.withRegs (Flt.zero n) (Flt.zero m)).flushed = S.withRegs f64Zero f64Zero :=
  congrArg₂ S.withRegs (flush_zero n) (flush_zero m)

end Sys2Proof.Machine
end

section
open Sys2Proof Sys2Proof.Machine

/-- Settles O45: a block of finite samples by induction, with zero registers as the invariant, and what
follows it from its end state. -/
theorem unitShelfPassesSamples : Obligations.UnitShelfPassesSamples := by
  unfold Obligations.UnitShelfPassesSamples
  intro S w hb0 hb1 hb2 hb1le hb2le h1 h2 hw
  have hS : S.IsIdentity := ⟨hb0, hb1, hb2, hb1le, hb2le⟩
  obtain ⟨hout, n, m, hend⟩ := hS.apply_finite h1 h2 hw
  refine ⟨hout, ⟨n, m, hend, by rw [hend, Shelf.flushed_withRegs_zero]; rfl⟩,
    fun z1 z2 h0 => hS.apply_fixed z1 z2 hw h0, hS.sample_neg_zero, fun x v hx => ?_⟩
  have hrest := (hS.withRegs (Flt.zero n) (Flt.zero m)).apply_not_finite hx rfl v
  rw [Shelf.apply_append, hend, hrest]
  exact ⟨rfl, rfl⟩
end

section
/-! The coefficients of a shelf at 0 dB (40_shelf.md R144 to R147, R154 item 1): with A = 1 the gain terms
drop out, both polynomials have the same values, and a0 is at least 2. -/

namespace Sys2Proof.Flt

open Machine

variable {f : Fmt}

/-- A value up to a finite bound in magnitude is rounded to one. -/
theorem abs_le_of_rounded (hf : IsFormat f) {x : Rat} {r B : Flt f} (h : Rounded x r)
    (hB : B.isFinite = true) (hx : |x| ≤ B.toRat) : r.abs.le B = true := by
  obtain ⟨hl, hr⟩ := abs_le.1 hx
  have hneg : Rounded (-B.toRat) B.neg := toRat_neg B ▸ rounded_self hf (by rwa [isFinite_neg])
  exact abs_le_of_neg_le_le (le_of_rounded hneg h hl) (le_of_rounded h (rounded_self hf hB) hr)

/-- A finite value other than zero, divided by itself, is 1. -/
theorem div_self_of_isFinite {a : F64} (h : a.isFinite = true) (h0 : a.toRat ≠ 0) :
    a.div a = Const.one := by
  have hr := rounded_div isFormat_b64 h h (isZero_of_toRat_ne_zero isFormat_b64 h0)
  rw [div_self h0, ← toRat_one] at hr
  exact eq_of_rounded_toRat_of_ne_zero isFormat_b64 hr (by decide) (by rw [toRat_one]; exact one_ne_zero)

theorem eq_of_toRat_eq {a b : Flt f} (ha : a.isFinite = true) (hb : b.isFinite = true)
    (h : a.toRat = b.toRat) : a.eq b = true :=
  eq_iff.2 ⟨isNan_of_isFinite ha, isNan_of_isFinite hb, (toRat_eq_iff ha hb).1 h⟩

theorem toRat_four : (Const.two.mul Const.two : F64).toRat = 4 := by
  have h : (Const.two.mul Const.two : F64) = .num false ⟨0x4010000000000000, by decide⟩ := by decide
  rw [h, toRat_num_eq (by decide), show sig _ _ = 2 ^ 52 by decide, show expo _ _ = -50 by decide]
  norm_num

end Sys2Proof.Flt

namespace Sys2Proof.Machine

/-- The other shelf: its formulas mirror these (40_shelf.md R145, R146). -/
def ShelfKind.other : ShelfKind → ShelfKind
  | .low => .high
  | .high => .low

/-- The raw coefficient b1 at A = 1, from the product `p` = 2 cw; it is the other shelf's a1. -/
def flatTerm (p : F64) : ShelfKind → F64
  | .low => Const.two.mul (Const.zero.sub p)
  | .high => Const.two.neg.mul (Const.zero.add p)

/-- The raw coefficients at A = 1, from the products `p` = 2 cw and `t` = 2 alpha. -/
def flatRaw (which : ShelfKind) (p t : F64) : RawBiquad F64 where
  b0 := Const.two.add t
  b1 := flatTerm p which
  b2 := Const.two.sub t
  a0 := Const.two.add t
  a1 := flatTerm p which.other
  a2 := Const.two.sub t

/-- At A = 1 the terms `t2` and `t3` of R144 are zeros. -/
theorem rawBiquad_one (which : ShelfKind) {cw alpha : F64} (hcw : cw.isFinite = true)
    (hadd : (Const.two.add (Const.two.mul alpha)).isFinite = true)
    (hsub : (Const.two.sub (Const.two.mul alpha)).isFinite = true) :
    rawBiquad .binary64 which Const.one cw alpha =
      flatRaw which (Const.two.mul cw) (Const.two.mul alpha) := by
  have hadd1 : (Const.one : F64).add Const.one = Const.two := by decide
  have hsub1 : (Const.one : F64).sub Const.one = Const.zero := by decide
  have ht3 : (Const.zero : F64).mul cw = Flt.zero cw.sign := by
    rw [Flt.mul_of_isZero (by decide) hcw (.inl rfl)]
    cases cw.sign <;> rfl
  have hroot : (Const.two : F64).mul Const.one.sqrt = Const.two := by decide
  have htwo_add : ∀ s, (Const.two : F64).add (Flt.zero s) = Const.two := fun s =>
    (Flt.add_of_isZero isFormat_b64 (by decide) rfl).resolve_right fun h => absurd h.1 (by decide)
  have htwo_sub : ∀ s, (Const.two : F64).sub (Flt.zero s) = Const.two := fun s => htwo_add (!s)
  have htwo_mul : (Const.two : F64).mul Const.one = Const.two := by decide
  have hneg_mul : (Const.two : F64).neg.mul Const.one = Const.two.neg := by decide
  cases which <;>
    simp only [rawBiquad, Arith.binary64, ShelfKind.other, flatRaw, flatTerm, hadd1, hsub1, ht3, hroot,
      htwo_add, htwo_sub, htwo_mul, hneg_mul, Flt.one_mul_of_isFinite hadd, Flt.one_mul_of_isFinite hsub]

/-- Either term is the negated product doubled and rounded. -/
theorem rounded_flatTerm (which : ShelfKind) {p : F64} (hp : p.isFinite = true) :
    Rounded (-(2 * p.toRat)) (flatTerm p which) := by
  have hlt := Flt.abs_toRat_lt isFormat_b64 hp
  have htwo : (Const.two : F64).isFinite = true := by decide
  have h0 := Flt.isFinite_zero isFormat_b64
  cases which with
  | low =>
    have hr := Flt.rounded_sub isFormat_b64 h0 hp
    rw [Flt.toRat_zero isFormat_b64, zero_sub, ← Flt.toRat_neg] at hr
    have hn : p.neg.isFinite = true := by rwa [Flt.isFinite_neg]
    have hnlt := Flt.abs_toRat_lt isFormat_b64 hn
    have hm := Flt.rounded_mul isFormat_b64 htwo (Flt.isFinite_of_rounded hr hnlt)
    rwa [Flt.toRat_eq_of_rounded hr hn hnlt, Flt.toRat_neg, Flt.toRat_two, mul_neg] at hm
  | high =>
    have hr := Flt.rounded_add isFormat_b64 h0 hp
    rw [Flt.toRat_zero isFormat_b64, zero_add] at hr
    have hm := Flt.rounded_mul isFormat_b64 (a := Const.two.neg) htwo (Flt.isFinite_of_rounded hr hlt)
    rwa [Flt.toRat_eq_of_rounded hr hp hlt, Flt.toRat_neg, Flt.toRat_two, neg_mul] at hm

/-- Both terms have one value, which is at most 4 in magnitude. -/
theorem flatTerm_spec {p : F64} (h : p.abs.le Const.two = true) (which : ShelfKind) :
    (flatTerm p which).isFinite = true ∧ |(flatTerm p which).toRat| ≤ 4 ∧
      (flatTerm p which).toRat = (flatTerm p which.other).toRat := by
  have hfour : (Const.two.mul Const.two : F64).isFinite = true := by decide
  obtain ⟨hpf, hp⟩ := Flt.isFinite_and_le_of_abs_le isFormat_b64 (by decide) h
  rw [Flt.toRat_two] at hp
  have hterm : ∀ k, (flatTerm p k).isFinite = true ∧ |(flatTerm p k).toRat| ≤ 4 := fun k => by
    rw [← Flt.toRat_four]
    refine Flt.isFinite_and_le_of_abs_le isFormat_b64 hfour
      (Flt.abs_le_of_rounded isFormat_b64 (rounded_flatTerm k hpf) hfour ?_)
    rw [Flt.toRat_four, abs_neg, abs_mul, abs_two]
    linarith
  exact ⟨(hterm which).1, (hterm which).2, Flt.toRat_eq_of_rounded_eq (rounded_flatTerm which hpf)
    (rounded_flatTerm which.other hpf) (hterm which).1 (hterm which.other).1⟩

theorem two_mul_abs_le_two {c : F64} (h : c.abs.le Const.one = true) :
    (Const.two.mul c).abs.le Const.two = true := by
  obtain ⟨hcf, hc⟩ := Flt.isFinite_and_le_of_abs_le isFormat_b64 (by decide) h
  refine Flt.abs_le_of_rounded isFormat_b64 (Flt.rounded_mul isFormat_b64 (by decide) hcf) (by decide) ?_
  rw [Flt.toRat_one] at hc
  rw [Flt.toRat_two, abs_mul, abs_two]
  linarith

/-- The sum and the difference of 2 and the gain term `2 alpha`: a0 is at least 2, and b2 and a2 are at most
2 in magnitude before they are divided by it. -/
theorem flat_sum_diff {alpha : F64} (h : Flt.Within Const.two alpha) :
    (Const.two.add (Const.two.mul alpha)).isFinite = true ∧
      2 ≤ (Const.two.add (Const.two.mul alpha)).toRat ∧
      (Const.two.sub (Const.two.mul alpha)).isFinite = true ∧
      |(Const.two.sub (Const.two.mul alpha)).toRat| ≤ 2 := by
  have htwo : (Const.two : F64).isFinite = true := by decide
  have hfour : (Const.two.mul Const.two : F64).isFinite = true := by decide
  have hself : Flt.Within Const.two (Const.two : F64) := ⟨by decide, by decide⟩
  have ht : Flt.Within (Const.two.mul Const.two) (Const.two.mul alpha) :=
    hself.mul isFormat_b64 h htwo htwo
  have htf := ht.isFinite isFormat_b64 hfour
  have h0 := Flt.toRat_nonneg isFormat_b64 htf ht.1
  have h4 := Flt.toRat_le_of_le htf hfour ht.2
  rw [Flt.toRat_four] at h4
  have hadd : (Const.two.add (Const.two.mul alpha)).isFinite = true :=
    (hself.add isFormat_b64 ht htwo hfour).isFinite isFormat_b64 (by decide)
  have hlow := Flt.toRat_le_of_rounded (Flt.rounded_self isFormat_b64 htwo)
    (Flt.rounded_add isFormat_b64 htwo htf) htwo hadd (by linarith)
  obtain ⟨hsub, hle⟩ := Flt.isFinite_and_le_of_abs_le isFormat_b64 htwo
    (Flt.abs_le_of_rounded isFormat_b64 (Flt.rounded_sub isFormat_b64 htwo htf) htwo
      (by rw [Flt.toRat_two, abs_le]; constructor <;> linarith))
  rw [Flt.toRat_two] at hlow hle
  exact ⟨hadd, hlow, hsub, hle⟩

/-- Divided by an a0 from 2 on, equal raw coefficients up to 4 are equal coefficients up to 2. -/
theorem quotients_spec {x x' y : F64} (hx : x.isFinite = true) (hx' : x'.isFinite = true)
    (hxx : x.toRat = x'.toRat) (hx4 : |x.toRat| ≤ 4) (hy : y.isFinite = true)
    (hy2 : 2 ≤ y.toRat) :
    (x.div y).abs.le Const.two = true ∧ (x.div y).eq (x'.div y) = true := by
  have hy0 : y.isZero = false := Flt.isZero_of_toRat_ne_zero isFormat_b64 (by linarith)
  have hbound : ∀ {r : F64}, Rounded (x.toRat / y.toRat) r → r.abs.le Const.two = true := fun h => by
    refine Flt.abs_le_of_rounded isFormat_b64 h (by decide) ?_
    rw [Flt.toRat_two, abs_div, abs_of_pos (by linarith : 0 < y.toRat), div_le_iff₀ (by linarith)]
    linarith
  have hr := Flt.rounded_div isFormat_b64 hx hy hy0
  have hr' := hxx ▸ Flt.rounded_div isFormat_b64 hx' hy hy0
  have hfin : ∀ {r : F64}, Rounded (x.toRat / y.toRat) r → r.isFinite = true := fun h =>
    (Flt.isFinite_and_le_of_abs_le isFormat_b64 (by decide) (hbound h)).1
  exact ⟨hbound hr, Flt.eq_of_toRat_eq (hfin hr) (hfin hr')
    (Flt.toRat_eq_of_rounded_eq hr hr' (hfin hr) (hfin hr'))⟩

/-- A zero gain is an amplitude of 1, where NUM.pow(10, 0) is (R144). -/
theorem Shelf.amplitude_of_isZero {P : Params} {S : Shelf} (h : S.gdb.isZero = true)
    (hpow : ∀ s, P.num.pow Const.ten (Flt.zero s) = Const.one) : S.amplitude P = Const.one := by
  have hdiv : ∀ s, (Flt.zero s : F64).div Const.forty = Flt.zero s := fun s => by
    rw [Flt.div_of_isZero (Flt.isFinite_of_isZero isFormat_b64 rfl) (by decide) rfl (by decide)]
    cases s <;> decide
  rw [Shelf.amplitude, Flt.eq_zero_of_isZero h, Flt.to64_zero, hdiv, hpow]

/-- At 0 dB the stored coefficients are those of the identity (R154 item 1). -/
theorem Shelf.coeffs_isIdentity {P : Params} (which : ShelfKind) {S : Shelf} (h : S.gdb.isZero = true)
    (hpow : ∀ s, P.num.pow Const.ten (Flt.zero s) = Const.one)
    (hcos : (P.num.cos S.angle).abs.le Const.one = true) (halpha : Flt.Within Const.two (S.alpha P)) :
    (S.coeffs P which).IsIdentity := by
  obtain ⟨ha0, ha0two, hd, hd2⟩ := flat_sum_diff halpha
  have hp := two_mul_abs_le_two hcos
  obtain ⟨hb1, hb1four, hba⟩ := flatTerm_spec hp which
  obtain ⟨ha1, -, -⟩ := flatTerm_spec hp which.other
  have hcf := (Flt.isFinite_and_le_of_abs_le isFormat_b64 (by decide) hcos).1
  obtain ⟨hb1le, hb1eq⟩ := quotients_spec hb1 ha1 hba hb1four ha0 ha0two
  obtain ⟨hb2le, -⟩ := quotients_spec hd hd rfl (hd2.trans (by norm_num)) ha0 ha0two
  rw [Shelf.coeffs, Shelf.raw, S.amplitude_of_isZero h hpow, rawBiquad_one which hcf ha0 hd]
  exact
    { b0_eq := Flt.div_self_of_isFinite ha0 (two_pos.trans_le ha0two).ne'
      b1_eq := hb1eq
      b2_eq := rfl
      b1_le := hb1le
      b2_le := hb2le }

end Sys2Proof.Machine
end

section
/-! The coefficient formulas in exact arithmetic (40_shelf.md R154 items 2 and 3; log entry 24): each
shelf's numerator is A times the other's denominator, 1/A for A turns one denominator into the other, and
both denominators have their roots inside the unit circle. -/

namespace Sys2Proof.Machine

open Complex (normSq)

/-- A real quadratic inside the stability triangle has its roots inside the unit circle. -/
theorem norm_root_lt_one {a1 a2 : ℝ} (h2 : |a2| < 1) (h1 : |a1| < 1 + a2) {z : ℂ}
    (hz : z ^ 2 + a1 * z + a2 = 0) : ‖z‖ < 1 := by
  obtain ⟨hre, him⟩ : z.re ^ 2 - z.im ^ 2 + a1 * z.re + a2 = 0 ∧ z.im * (2 * z.re + a1) = 0 := by
    have hre := congrArg Complex.re hz
    have him := congrArg Complex.im hz
    simp only [pow_two, Complex.add_re, Complex.add_im, Complex.mul_re, Complex.mul_im,
      Complex.ofReal_re, Complex.ofReal_im, Complex.zero_re, Complex.zero_im] at hre him
    constructor <;> linarith
  obtain ⟨hlo, hhi⟩ := abs_lt.1 h1
  obtain ⟨-, h2hi⟩ := abs_lt.1 h2
  rw [← sq_lt_one_iff₀ (norm_nonneg z), ← Complex.normSq_eq_norm_sq, Complex.normSq_apply]
  rcases mul_eq_zero.1 him with h0 | h0
  case inl =>
    rw [h0] at hre ⊢
    have hsq : |z.re| < 1 := by
      rw [abs_lt]
      constructor <;> by_contra hge <;> rw [not_lt] at hge <;> nlinarith
    nlinarith [abs_lt.1 hsq]
  case inr => nlinarith

/-- The numerator of a transfer function at `e` (40_shelf.md R153). -/
def RawBiquad.num (r : RawBiquad ℝ) (e : ℂ) : ℂ := r.b0 + r.b1 * e + r.b2 * (e * e)

/-- The denominator of a transfer function at `e` (40_shelf.md R153). -/
def RawBiquad.den (r : RawBiquad ℝ) (e : ℂ) : ℂ := r.a0 + r.a1 * e + r.a2 * (e * e)

/-- Normalisation leaves the response alone. -/
theorem RawBiquad.exactDb_normalised {r : RawBiquad ℝ} (h : r.a0 ≠ 0) (w : ℝ) :
    (r.normalised .exact).exactDb w = 10 * Real.logb 10
      (normSq (r.num (Complex.exp (-(w * Complex.I)))) /
        normSq (r.den (Complex.exp (-(w * Complex.I))))) := by
  have h0 : (r.a0 : ℂ) ≠ 0 := by exact_mod_cast h
  generalize he : Complex.exp (-(w * Complex.I)) = e
  have hn : ((r.b0 / r.a0 : ℝ) : ℂ) + (r.b1 / r.a0 : ℝ) * e + (r.b2 / r.a0 : ℝ) * (e * e) =
      r.num e / r.a0 := by
    rw [RawBiquad.num]; push_cast; ring
  have hd : 1 + ((r.a1 / r.a0 : ℝ) : ℂ) * e + (r.a2 / r.a0 : ℝ) * (e * e) = r.den e / r.a0 := by
    rw [RawBiquad.den]; push_cast; field_simp
  simp only [Biquad.exactDb, RawBiquad.normalised, Arith.exact, he, hn, hd, map_div₀]
  rw [div_div_div_cancel_right₀ (Complex.normSq_pos.2 h0).ne']

/-- Each shelf's numerator is A times the other's denominator (R145, R146). -/
theorem exactShelf_num (which : ShelfKind) (A w0 Q : ℝ) (e : ℂ) :
    (exactShelf which A w0 Q).num e = A * (exactShelf which.other A w0 Q).den e := by
  cases which <;>
  · simp only [RawBiquad.num, RawBiquad.den, exactShelf, rawBiquad, Arith.exact, ShelfKind.other]
    push_cast
    ring

/-- At 1/A a shelf's denominator is that of the other at A, divided by A. -/
theorem exactShelf_den_inv (which : ShelfKind) {A : ℝ} (hA : 0 < A) (w0 Q : ℝ) (e : ℂ) :
    (exactShelf which A⁻¹ w0 Q).den e = (A : ℂ)⁻¹ * (exactShelf which.other A w0 Q).den e := by
  have hsqrt : √A⁻¹ = √A / A := by rw [Real.sqrt_inv, Real.sqrt_div_self]
  have h0 : (A : ℂ) ≠ 0 := by exact_mod_cast hA.ne'
  cases which <;>
  · simp only [RawBiquad.den, exactShelf, rawBiquad, Arith.exact, ShelfKind.other, hsqrt]
    push_cast
    field_simp
    ring

section
variable {A w0 Q : ℝ} (hA : 0 < A) (hQ : 0 < Q) (h0 : 0 < w0) (hpi : w0 < Real.pi)
include hA hQ h0 hpi

/-- The denominator in positive terms: the gain term `t` of R144, and the other two sorted by `1 + cos w0`
and `1 - cos w0`. -/
theorem exactShelf_den_terms (which : ShelfKind) : ∃ y z t : ℝ, 0 < y ∧ 0 < z ∧ 0 < t ∧
    (exactShelf which A w0 Q).a0 = y + z + t ∧ (exactShelf which A w0 Q).a2 = y + z - t ∧
    |(exactShelf which A w0 Q).a1| = 2 * |y - z| := by
  have hs : 0 < Real.sin w0 := Real.sin_pos_of_pos_of_lt_pi h0 hpi
  have hsq := Real.sin_sq_add_cos_sq w0
  have hlo : 0 < 1 + Real.cos w0 := by nlinarith
  have hhi : 0 < 1 - Real.cos w0 := by nlinarith
  have ht : 0 < 2 * √A * (Real.sin w0 / (2 * Q)) := by positivity
  have habs : ∀ x y : ℝ, x = 2 * y ∨ x = -(2 * y) → |x| = 2 * |y| := fun x y h => by
    rw [← abs_two (α := ℝ), ← abs_mul]
    exact abs_eq_abs.2 h
  cases which with
  | low =>
    refine ⟨A * (1 + Real.cos w0), 1 - Real.cos w0, _, mul_pos hA hlo, hhi, ht, ?_, ?_,
      habs _ _ (.inr ?_)⟩ <;>
    · simp only [exactShelf, rawBiquad, shelfAlpha, Arith.exact]
      ring
  | high =>
    refine ⟨A * (1 - Real.cos w0), 1 + Real.cos w0, _, mul_pos hA hhi, hlo, ht, ?_, ?_,
      habs _ _ (.inl ?_)⟩ <;>
    · simp only [exactShelf, rawBiquad, shelfAlpha, Arith.exact]
      ring

/-- The normalised denominator lies in the stability triangle (R154 item 3). -/
theorem exactShelf_stable (which : ShelfKind) : 0 < (exactShelf which A w0 Q).a0 ∧
    |((exactShelf which A w0 Q).normalised .exact).a2| < 1 ∧
    |((exactShelf which A w0 Q).normalised .exact).a1| <
      1 + ((exactShelf which A w0 Q).normalised .exact).a2 := by
  obtain ⟨y, z, t, hy, hz, ht, ha0, ha2, ha1⟩ := exactShelf_den_terms hA hQ h0 hpi which
  have hpos : 0 < y + z + t := by positivity
  have hyz : |y - z| < y + z := abs_lt.2 ⟨by linarith, by linarith⟩
  simp only [RawBiquad.normalised, Arith.exact, abs_div, ha0, ha2, ha1, abs_of_pos hpos]
  refine ⟨hpos, ?_, ?_⟩
  · rw [div_lt_one hpos, abs_lt]
    constructor <;> linarith
  · rw [one_add_div hpos.ne', div_lt_div_iff_of_pos_right hpos]
    linarith

/-- No denominator has a root on the unit circle. -/
theorem exactShelf_den_ne_zero (which : ShelfKind) {e : ℂ} (he : ‖e‖ = 1) :
    (exactShelf which A w0 Q).den e ≠ 0 := by
  obtain ⟨ha0, h2, h1⟩ := exactShelf_stable hA hQ h0 hpi which
  intro hden
  have hc : ((exactShelf which A w0 Q).a0 : ℂ) ≠ 0 := by exact_mod_cast ha0.ne'
  have he0 : e ≠ 0 := norm_ne_zero_iff.1 (he ▸ one_ne_zero)
  refine absurd (norm_root_lt_one h2 h1 (z := e⁻¹) ?_) (by rw [norm_inv, he, inv_one]; exact lt_irrefl 1)
  rw [RawBiquad.den] at hden
  simp only [RawBiquad.normalised, Arith.exact]
  push_cast
  field_simp
  linear_combination hden

/-- The mirror relation (R154 item 2): with R the ratio of the two denominators at A, the low shelf at A
has the squared magnitude A^2 R and the high shelf at 1/A has A^-2 R. -/
theorem exactDb_low_sub_high (w : ℝ) :
    ((exactShelf .low A w0 Q).normalised .exact).exactDb w -
      ((exactShelf .high A⁻¹ w0 Q).normalised .exact).exactDb w = 40 * Real.logb 10 A := by
  have hA' : 0 < A⁻¹ := inv_pos.2 hA
  rw [RawBiquad.exactDb_normalised (exactShelf_stable hA hQ h0 hpi .low).1.ne',
    RawBiquad.exactDb_normalised (exactShelf_stable hA' hQ h0 hpi .high).1.ne']
  have hnorm : ‖Complex.exp (-(w * Complex.I))‖ = 1 := by
    rw [← neg_mul, ← Complex.ofReal_neg, Complex.norm_exp_ofReal_mul_I]
  generalize Complex.exp (-(w * Complex.I)) = e at hnorm
  have hl := Complex.normSq_pos.2 (exactShelf_den_ne_zero hA hQ h0 hpi .low hnorm)
  have hh := Complex.normSq_pos.2 (exactShelf_den_ne_zero hA hQ h0 hpi .high hnorm)
  rw [exactShelf_num, exactShelf_num, exactShelf_den_inv _ hA, exactShelf_den_inv _ hA]
  simp only [ShelfKind.other, map_mul, map_inv₀, Complex.normSq_ofReal, Complex.ofReal_inv]
  generalize normSq ((exactShelf .low A w0 Q).den e) = L at hl
  generalize normSq ((exactShelf .high A w0 Q).den e) = H at hh
  have hR : H / L ≠ 0 := (div_pos hh hl).ne'
  have hA2 : A ^ 2 ≠ 0 := (pow_pos hA 2).ne'
  have hlow : A * A * H / L = A ^ 2 * (H / L) := by ring
  have hhigh : (A * A)⁻¹ * ((A * A)⁻¹ * H) / ((A * A)⁻¹ * L) = (A ^ 2)⁻¹ * (H / L) := by
    field_simp
  rw [hlow, hhigh, Real.logb_mul hA2 hR, Real.logb_mul (inv_ne_zero hA2) hR, Real.logb_inv,
    Real.logb_pow]
  push_cast
  ring
end

end Sys2Proof.Machine
end

section
open Sys2Proof Sys2Proof.Machine

/-- Settles O44: the binary64 coefficients at 0 dB, and the same formulas in exact arithmetic. -/
theorem shelfAtZeroDbIsTheIdentity : Obligations.ShelfAtZeroDbIsTheIdentity := by
  unfold Obligations.ShelfAtZeroDbIsTheIdentity
  refine ⟨fun P which S h hpow hcos hlo hhi => ?identity, fun G w0 Q w hQ h0 hpi => ?mirror,
    fun which A w0 Q hA hQ h0 hpi => ?stable⟩
  case identity =>
    have hI := Shelf.coeffs_isIdentity which h hpow hcos ⟨hlo, hhi⟩
    exact ⟨hI.b0_eq, hI.b1_eq, hI.b2_eq, hI.b1_le, hI.b2_le⟩
  case mirror =>
    have hinv : (10 : ℝ) ^ (-G / 40) = ((10 : ℝ) ^ (G / 40))⁻¹ := by
      rw [neg_div, Real.rpow_neg (by norm_num)]
    rw [exactShelfDb, exactShelfDb, hinv,
      exactDb_low_sub_high (Real.rpow_pos_of_pos (by norm_num) _) hQ h0 hpi,
      Real.logb_rpow (by norm_num) (by norm_num)]
    ring
  case stable =>
    obtain ⟨ha0, h2, h1⟩ := exactShelf_stable hA hQ h0 hpi which
    exact ⟨ha0, h2, h1, fun z => norm_root_lt_one h2 h1⟩
end

section
/-! A band at unity gain (41_band.md R174 to R176, R182 item 3): the peaking mix is a zero, so a section
adds a zero to its sample where the all-pass difference is finite. -/

namespace Sys2Proof.Flt

open Machine

variable {f : Fmt}

/-- A difference is finite only of a finite minuend. -/
theorem isFinite_of_sub {a b : Flt f} (h : (a.sub b).isFinite = true) : a.isFinite = true := by
  by_contra ha
  cases a with
  | nan => exact ha h
  | num s m =>
    cases b with
    | nan => cases h
    | num t n =>
      have hm : m.val = f.infMag := by simpa [isFinite] using ha
      rw [sub, neg, add, if_pos hm] at h
      split at h
      · cases h
      · exact ha h

/-- A zero times a NaN or an infinity is a NaN. -/
theorem zero_mul_of_not_isFinite (hf : IsFormat f) {z a : Flt f} (hz : z.isZero = true)
    (ha : a.isFinite = false) : z.mul a = .nan := by
  by_cases hn : a.isNan = true
  · exact (nan_operand (.inr hn)).2.2.1
  · rw [eq_inf_of_not_isFinite (a := a) (by simpa using hn) (by simp [ha]),
      mul_inf_of_number hf _ (isNan_of_isFinite (isFinite_of_isZero hf hz)), if_pos hz]

end Sys2Proof.Flt

namespace Sys2Proof.Machine

theorem Band.coeffs_a_of_unity (P : Params) {B : Band} (h : B.gl = Const.one) :
    (B.coeffs P).a = f32Zero := by
  have ha : (((Const.one : F32).to64.sqrt.sub Const.one).div Const.two).to32 = f32Zero := by decide
  rw [← ha, ← h]
  rfl

theorem latticeSection_out (s1 s2 a zi zo x : F32) :
    (latticeSection s1 s2 a zi zo x).2.2 = x.add (a.mul (allpassDiff s2 zo x)) := rfl

section zeroMix
variable {a : F32} (ha : a.isZero = true) (s1 s2 zi zo x : F32)
include ha

/-- The mix adds a zero to the sample, which is finite because the difference is. -/
theorem latticeSection_passes (hd : (allpassDiff s2 zo x).isFinite = true) :
    PassesAsValue x (latticeSection s1 s2 a zi zo x).2.2 := by
  have haf := Flt.isFinite_of_isZero isFormat_b32 ha
  rw [latticeSection_out, Flt.mul_of_isZero haf hd (.inl ha)]
  exact Flt.add_of_isZero isFormat_b32 (Flt.isFinite_of_sub hd) rfl

theorem latticeSection_nan (hd : (allpassDiff s2 zo x).isFinite = false) :
    (latticeSection s1 s2 a zi zo x).2.2 = .nan := by
  rw [latticeSection_out, Flt.zero_mul_of_not_isFinite isFormat_b32 ha hd]
  exact (Flt.nan_operand (.inr rfl)).1

end zeroMix

theorem PassesAsValue.trans {x y z : F32} (hxy : PassesAsValue x y) (hyz : PassesAsValue y z) :
    PassesAsValue x z := by
  obtain rfl | ⟨hx, rfl⟩ := hxy
  · exact hyz
  · obtain hz | ⟨-, hz⟩ := hyz <;> exact .inr ⟨hx, hz⟩

/-- Both sections pass each sample, and `a` is kept from one sample to the next (R176). -/
theorem Band.apply_passes {B : Band} {w : List F32} (ha : B.a.isZero = true) (hw : B.DiffsFinite w) :
    List.Forall₂ PassesAsValue w (B.apply w).2 := by
  induction w generalizing B with
  | nil => exact .nil
  | cons x w ih =>
    obtain ⟨h0, h1, hrest⟩ := hw
    have hx := latticeSection_passes ha B.s1 B.s2 B.z0 B.z1 x h0
    rw [Band.apply_cons]
    exact .cons (hx.trans (latticeSection_passes ha B.s1 B.s2 B.z2 B.z3 _ h1)) (ih ha hrest)

end Sys2Proof.Machine
end

section
open Sys2Proof Sys2Proof.Machine

/-- Settles O46: a zero mix in one section, then both sections sample by sample. -/
theorem bandAtUnityGainPassesSamples : Obligations.BandAtUnityGainPassesSamples := by
  unfold Obligations.BandAtUnityGainPassesSamples
  exact ⟨fun P _ h => Band.coeffs_a_of_unity P h,
    fun s1 s2 a zi zo x ha =>
      ⟨latticeSection_passes ha s1 s2 zi zo x, latticeSection_nan ha s1 s2 zi zo x⟩,
    fun _ _ ha hw => Band.apply_passes ha hw⟩
end

section
/-! A disabled high-pass or low-pass (42_hplp.md R204, R209, R211): its targets are the bypass identity, where
the smoother rests, and there the recursion is skipped. -/

namespace Sys2Proof.Machine

theorem hplpTargets_of_disabled (P : Params) (x : HplpKind) {r : HplpControls} (h : r.en = false)
    (rate : F32) : hplpTargets P x r rate = (f32One, f32Zero, f32Zero) := by
  have hone : (Const.one : F32) = f32One := by decide
  rw [hplpTargets, h, if_neg Bool.false_ne_true, hone]
  rfl

theorem smooth_one_one : smooth f32One f32One = f32One := by decide

theorem smooth_zero_zero : smooth f32Zero f32Zero = f32Zero := by decide

/-- The guard leaves p and g to the smoother (R204). -/
theorem Hplp.interpolate_params (P : Params) (x : HplpKind) (r : HplpControls) (rate : F32) (F : Hplp) :
    (F.interpolate P x r rate).p = smooth F.p (hplpTargets P x r rate).1 ∧
      (F.interpolate P x r rate).g = smooth F.g (hplpTargets P x r rate).2.2 := by
  obtain ⟨hp, -, hg⟩ := F.nanGuard_params
  exact ⟨congrArg (smooth · _) hp, congrArg (smooth · _) hg⟩

/-- A section at its exact bypass identity is skipped (R211). -/
theorem Hplp.compute_of_bypass (x : HplpKind) {F : Hplp} (hp : F.p = f32One) (hg : F.g = f32Zero)
    (w : List F32) : F.compute x w = (F, w) := by
  have hb : (Config.skipAtBypass && F.bypassed) = true := by
    rw [Hplp.bypassed, hp, hg]
    decide
  rw [Hplp.compute, if_pos hb]

end Sys2Proof.Machine
end

section
open Sys2Proof Sys2Proof.Machine

/-- Settles O47: one smoothing step towards the identity it is at keeps the section there, and there the
recursion is skipped. -/
theorem disabledHplpPassesSamples : Obligations.DisabledHplpPassesSamples := by
  unfold Obligations.DisabledHplpPassesSamples
  intro P x r rate F w hen hp hq hg
  have ht := hplpTargets_of_disabled P x hen rate
  obtain ⟨hip, hig⟩ := F.interpolate_params P x r rate
  obtain ⟨hrp, hrq, hrg⟩ := F.run_params P x r rate w
  rw [ht, hp, smooth_one_one] at hip hrp
  rw [ht, hg, smooth_zero_zero] at hig hrg
  rw [ht, hq, smooth_zero_zero] at hrq
  exact ⟨by rw [Hplp.run, Hplp.compute_of_bypass x hip hig], hrp, hrq, hrg⟩
end

section
/-! The clean-up of the delay registers: the NaN guard (42_hplp.md R206) and the denormal flush
(43_smoother.md R236), whose threshold is a normal number of either format. -/

namespace Sys2Proof.Flt

variable {f : Fmt}

@[simp] theorem isFinite_abs (a : Flt f) : a.abs.isFinite = a.isFinite := by cases a <;> rfl

theorem lt_iff_toRat_lt {a b : Flt f} (ha : a.isFinite = true) (hb : b.isFinite = true) :
    a.lt b = true ↔ a.toRat < b.toRat := by
  rw [toRat_lt_iff ha hb]
  exact ⟨key_lt_of_lt, fun h => lt_iff.2 ⟨isNan_of_isFinite ha, isNan_of_isFinite hb, h⟩⟩

end Sys2Proof.Flt

namespace Sys2Proof.Machine

variable {f : Fmt}

theorem Hplp.nanGuard_of_finite {F : Hplp} (h : F.z1.isFinite = true ∧ F.z2.isFinite = true) :
    F.nanGuard = F := by
  rw [Hplp.nanGuard, if_pos (Bool.and_eq_true_iff.2 h)]

theorem Hplp.nanGuard_of_not_finite {F : Hplp}
    (h : ¬ (F.z1.isFinite = true ∧ F.z2.isFinite = true)) :
    F.nanGuard = { F with z1 := f32Zero, z2 := f32Zero } := by
  rw [Hplp.nanGuard, if_neg (mt Bool.and_eq_true_iff.1 h)]
  rfl

theorem denormalFloor_isFinite (hf : IsFormat f) : (Const.denormalFloor : Flt f).isFinite = true := by
  rcases hf with rfl | rfl <;> decide

/-- The threshold of the flush lies above every subnormal. -/
theorem two_pow_mb_le_denormalFloor (hf : IsFormat f) :
    (2 ^ f.mb : Nat) ≤ (Const.denormalFloor : Flt f).key := by
  rcases hf with rfl | rfl <;> decide

/-- The flush acts on the finite values below its threshold in magnitude. -/
theorem abs_lt_denormalFloor_iff (hf : IsFormat f) (v : Flt f) :
    v.abs.lt Const.denormalFloor = true ↔
      v.isFinite = true ∧ |v.toRat| < (Const.denormalFloor : Flt f).toRat := by
  have hd := denormalFloor_isFinite hf
  rw [← Flt.toRat_abs, ← Flt.isFinite_abs]
  constructor
  · intro h
    obtain ⟨ha, hb, hk⟩ := Flt.lt_iff.1 h
    have hv := (Flt.isFinite_and_le_of_abs_le hf hd (Flt.le_iff.2 ⟨ha, hb, hk.le⟩)).1
    rw [← Flt.isFinite_abs] at hv
    exact ⟨hv, (Flt.lt_iff_toRat_lt hv hd).1 h⟩
  · rintro ⟨hv, hlt⟩
    exact (Flt.lt_iff_toRat_lt hv hd).2 hlt

theorem flush_of_abs_lt {v : Flt f} (h : v.abs.lt Const.denormalFloor = true) :
    flush v = Flt.zero false := if_pos h

theorem flush_of_not_abs_lt {v : Flt f} (h : ¬ v.abs.lt Const.denormalFloor = true) : flush v = v :=
  if_neg h

/-- A zero or subnormal is below the threshold. -/
theorem abs_ofMag_lt_denormalFloor (hf : IsFormat f) (s : Bool) {m : Nat} (hm : m < 2 ^ f.mb) :
    (Flt.ofMag s m : Flt f).abs.lt Const.denormalFloor = true := by
  have hd := denormalFloor_isFinite hf
  have hle := two_pow_mb_le_denormalFloor hf
  have hmag : m < f.infMag := by
    have := Flt.natAbs_key_lt hd
    omega
  rw [Flt.ofMag_of_lt hmag, Flt.lt_iff]
  exact ⟨rfl, Flt.isNan_of_isFinite hd, (Int.ofNat_lt.2 hm).trans_le hle⟩

end Sys2Proof.Machine
end

section
open Sys2Proof Sys2Proof.Machine

/-- Settles O48: the guard by its two cases, the flush by its comparison read on the values. -/
theorem guardAndFlushCleanRegisters : Obligations.GuardAndFlushCleanRegisters := by
  unfold Obligations.GuardAndFlushCleanRegisters
  refine ⟨fun F => ⟨Hplp.nanGuard_of_finite, Hplp.nanGuard_of_not_finite⟩,
    fun f v hf => ⟨fun hv hlt => ?below, fun hkeep => ?kept, fun s m hm => ?subnormal⟩⟩
  case below => exact flush_of_abs_lt ((abs_lt_denormalFloor_iff hf v).2 ⟨hv, hlt⟩)
  case kept =>
    refine flush_of_not_abs_lt fun h => ?_
    obtain ⟨hv, hlt⟩ := (abs_lt_denormalFloor_iff hf v).1 h
    rcases hkeep with hinf | hge
    · exact Bool.false_ne_true (hinf.symm.trans hv)
    · exact hge.not_gt hlt
  case subnormal => exact flush_of_abs_lt (abs_ofMag_lt_denormalFloor hf s hm)
end

section
/-! One smoothing step (43_smoother.md R231). By `smooth_increment` the sum it forms lies between the value
and the target before it is rounded, so it does so after; the snap for want of progress (R230) leaves no way
to stay where it was. -/

namespace Sys2Proof.Flt

open Machine

variable {f : Fmt} {a b : Flt f}

protected theorem le_refl (h : a.isNan = false) : a.le a = true := le_iff.2 ⟨h, h, le_rfl⟩

protected theorem le_of_lt (h : a.lt b = true) : a.le b = true := by
  obtain ⟨ha, hb, hk⟩ := lt_iff.1 h
  exact le_iff.2 ⟨ha, hb, hk.le⟩

protected theorem le_of_eq (h : a.eq b = true) : a.le b = true := by
  obtain ⟨ha, hb, hk⟩ := eq_iff.1 h
  exact le_iff.2 ⟨ha, hb, hk.le⟩

protected theorem eq_comm : a.eq b = b.eq a := by
  rw [Bool.eq_iff_iff, eq_iff, eq_iff]
  exact ⟨fun ⟨ha, hb, hk⟩ => ⟨hb, ha, hk.symm⟩, fun ⟨hb, ha, hk⟩ => ⟨ha, hb, hk.symm⟩⟩

protected theorem le_antisymm (hab : a.le b = true) (hba : b.le a = true) : a.eq b = true := by
  obtain ⟨ha, hb, hk⟩ := le_iff.1 hab
  exact eq_iff.2 ⟨ha, hb, le_antisymm hk (key_le_of_le hba)⟩

protected theorem lt_of_le_of_ne (hab : a.le b = true) (hne : a.eq b = false) : a.lt b = true := by
  obtain ⟨ha, hb, hk⟩ := le_iff.1 hab
  refine lt_iff.2 ⟨ha, hb, lt_of_le_of_ne hk fun he => ?_⟩
  exact Bool.false_ne_true (hne.symm.trans (eq_iff.2 ⟨ha, hb, he⟩))

/-- Only a value below the overflow threshold is rounded to a finite float. -/
theorem abs_lt_of_rounded {x : Rat} {r : Flt f} (h : Rounded x r) (hr : r.isFinite = true) :
    |x| < overflowBound f := by
  rcases finite_or_inf_of_rounded h with ⟨hx, -⟩ | ⟨-, rfl⟩
  · exact hx
  · simp [inf, ofMag, isFinite] at hr

end Sys2Proof.Flt

namespace Sys2Proof.Machine

/-- The rounded sum of `SMOOTH`, before it may snap to the target (R230). -/
def smoothSum (c t : F32) : F32 := c.add (Const.smoothK.mul (t.sub c))

/-- A step ends at the target or at its sum, and at the sum only where that made progress (R230). -/
theorem smooth_eq_target_or_sum (c t : F32) :
    smooth c t = t ∨ smooth c t = smoothSum c t ∧ (smoothSum c t).eq c = false := by
  by_cases h : ((t.sub (smoothSum c t)).abs.lt Const.snapEps || (smoothSum c t).eq c) = true
  · exact .inl (if_pos h)
  · exact .inr ⟨if_neg h, (Bool.or_eq_false_iff.1 (Bool.eq_false_of_not_eq_true h)).2⟩

/-- Without progress the step snaps to the target (R230). -/
theorem smooth_of_sum_eq {c t : F32} (h : (smoothSum c t).eq c = true) : smooth c t = t :=
  (smooth_eq_target_or_sum c t).elim id fun ⟨_, hne⟩ => absurd (hne.symm.trans h) Bool.false_ne_true

/-- Rounding is monotone, so the sum stays between the value and the target (R231 item 1). -/
theorem smoothSum_between {c t : F32} (hc : c.isFinite = true) (ht : t.isFinite = true)
    (hd : (t.sub c).isFinite = true) :
    (c.le t = true → c.le (smoothSum c t) = true ∧ (smoothSum c t).le t = true) ∧
      (t.le c = true → t.le (smoothSum c t) = true ∧ (smoothSum c t).le c = true) := by
  obtain ⟨hp, hup, hdown⟩ :=
    smooth_increment hc ht (Flt.abs_lt_of_rounded (Flt.rounded_sub isFormat_b32 ht hc) hd)
  have hsum : Rounded _ (smoothSum c t) := Flt.rounded_add isFormat_b32 hc hp
  have hcr := Flt.rounded_self isFormat_b32 hc
  have htr := Flt.rounded_self isFormat_b32 ht
  constructor
  · intro h
    obtain ⟨hl, hr⟩ := hup (Flt.toRat_le_of_le hc ht h)
    exact ⟨Flt.le_of_rounded hcr hsum hl, Flt.le_of_rounded hsum htr hr⟩
  · intro h
    obtain ⟨hl, hr⟩ := hdown (Flt.toRat_le_of_le ht hc h)
    exact ⟨Flt.le_of_rounded htr hsum hl, Flt.le_of_rounded hsum hcr hr⟩

end Sys2Proof.Machine
end

section
open Sys2Proof Sys2Proof.Machine

/-- Settles O49: the step is the target or a sum that lies between and differs from the value; at the target
the sum is squeezed, so the step snaps. -/
theorem smoothMovesTowardsTheTarget : Obligations.SmoothMovesTowardsTheTarget := by
  unfold Obligations.SmoothMovesTowardsTheTarget
  intro c t hc ht hd
  obtain ⟨hup, hdown⟩ := smoothSum_between hc ht hd
  refine ⟨fun hlt => ?below, fun hlt => ?above, fun heq => ?atTarget⟩
  case below =>
    obtain ⟨hl, hr⟩ := hup (Flt.le_of_lt hlt)
    rcases smooth_eq_target_or_sum c t with h | ⟨h, hne⟩ <;> rw [h]
    · exact ⟨hlt, Flt.le_refl (Flt.isNan_of_isFinite ht)⟩
    · exact ⟨Flt.lt_of_le_of_ne hl (Flt.eq_comm.trans hne), hr⟩
  case above =>
    obtain ⟨hl, hr⟩ := hdown (Flt.le_of_lt hlt)
    rcases smooth_eq_target_or_sum c t with h | ⟨h, hne⟩ <;> rw [h]
    · exact ⟨Flt.le_refl (Flt.isNan_of_isFinite ht), hlt⟩
    · exact ⟨hl, Flt.lt_of_le_of_ne hr hne⟩
  case atTarget =>
    have hcn := (hup (Flt.le_of_eq heq)).1
    have hnc := (hdown (Flt.le_of_eq (Flt.eq_comm.trans heq))).2
    exact smooth_of_sum_eq (Flt.le_antisymm hnc hcn)
end

section
/-! How a block is cut into sub-blocks (44_channel.md R251, R252). -/

namespace Sys2Proof.Machine

theorem subblockLen_bounds {rem : Nat} (h : 0 < rem) :
    1 ≤ subblockLen rem ∧ subblockLen rem ≤ 48 := by
  unfold subblockLen Config.subMax Config.subNom
  split <;> omega

/-- A sub-block before the last is the nominal one. -/
theorem subblockLen_of_rest {rem : Nat} (h : rem - subblockLen rem ≠ 0) :
    subblockLen rem = 32 ∧ 48 < rem := by
  unfold subblockLen Config.subMax Config.subNom at h ⊢
  split at h
  case isTrue h48 => exact ⟨if_pos h48, h48⟩
  case isFalse => omega

/-- The list of sub-blocks for the `rem` samples from `off` on, without fuel. -/
inductive Tiling : (off rem : Nat) → List (Nat × Nat) → Prop
  | done (off : Nat) : Tiling off 0 []
  | next {off rem : Nat} {bs : List (Nat × Nat)} (hpos : 0 < rem)
      (rest : Tiling (off + subblockLen rem) (rem - subblockLen rem) bs) :
      Tiling off rem ((off, subblockLen rem) :: bs)

theorem tiling_subblocksFrom {fuel : Nat} :
    ∀ {off rem : Nat}, rem ≤ fuel → Tiling off rem (subblocksFrom fuel off rem) := by
  induction fuel with
  | zero =>
    intro off rem h
    obtain rfl : rem = 0 := by omega
    exact .done off
  | succ fuel ih =>
    intro off rem h
    rw [subblocksFrom]
    split
    case isTrue h0 => exact h0 ▸ .done off
    case isFalse h0 =>
      have hpos := Nat.pos_of_ne_zero h0
      have hlen := (subblockLen_bounds hpos).1
      exact .next hpos (ih (by omega))

theorem tiling_subblocks (n : Nat) : Tiling 0 n (subblocks n) := tiling_subblocksFrom le_rfl

namespace Tiling

variable {off rem : Nat} {bs : List (Nat × Nat)}

theorem length_bounds (h : Tiling off rem bs) : ∀ b ∈ bs, 1 ≤ b.2 ∧ b.2 ≤ 48 := by
  induction h with
  | done => nofun
  | next hpos _ ih => exact List.forall_mem_cons.2 ⟨subblockLen_bounds hpos, ih⟩

theorem off_le (h : Tiling off rem bs) : ∀ b ∈ bs, off ≤ b.1 := by
  induction h with
  | done => nofun
  | next _ _ ih => exact List.forall_mem_cons.2 ⟨le_rfl, fun b hb => (Nat.le_add_right ..).trans (ih b hb)⟩

theorem sum_length (h : Tiling off rem bs) : (bs.map Prod.snd).sum = rem := by
  induction h with
  | done => rfl
  | next _ _ ih => rw [List.map_cons, List.sum_cons, ih, Nat.add_sub_cancel' (subblockLen_le _)]

/-- A further sub-block is there exactly when samples remain. -/
theorem length_pos_iff (h : Tiling off rem bs) : 0 < bs.length ↔ rem ≠ 0 := by
  cases h with
  | done => simp
  | next hpos => simp [hpos.ne']

/-- The `i`-th sub-block starts at sample `32 i`; it is the nominal one when more follow, and takes the rest
when none does. -/
theorem getElem?_spec (h : Tiling off rem bs) : ∀ i b, bs[i]? = some b → b.1 = off + 32 * i ∧
    (i + 1 < bs.length → b.2 = 32 ∧ 48 < off + rem - b.1) ∧
    (i + 1 = bs.length → b.2 = off + rem - b.1) := by
  induction h with
  | done => nofun
  | @next off rem bs hpos rest ih =>
    have hrest := rest.length_pos_iff
    have hnominal := subblockLen_of_rest (rem := rem)
    have hle := subblockLen_le rem
    intro i b hb
    rw [List.length_cons]
    cases i with
    | zero =>
      obtain rfl : (off, subblockLen rem) = b := Option.some.inj hb
      dsimp only
      omega
    | succ i =>
      rw [List.getElem?_cons_succ] at hb
      have hi := (List.getElem?_eq_some_iff.1 hb).1
      obtain ⟨hstart, hmid, hlast⟩ := ih i b hb
      omega

/-- Each sub-block ends before the later ones start. -/
theorem pairwise (h : Tiling off rem bs) : bs.Pairwise fun b d => b.1 + b.2 ≤ d.1 := by
  induction h with
  | done => exact .nil
  | next _ rest ih => exact List.pairwise_cons.2 ⟨rest.off_le, ih⟩

end Tiling

end Sys2Proof.Machine
end

section
open Sys2Proof Sys2Proof.Machine

/-- Settles O29: each clause is a fact about `Tiling`, which the sub-blocks of a block satisfy. -/
theorem subblocksTileTheBlock : Obligations.SubblocksTileTheBlock := by
  unfold Obligations.SubblocksTileTheBlock
  refine ⟨fun rem => rfl, fun n => ?_, by decide, by decide⟩
  have h := tiling_subblocks n
  refine ⟨h.length_bounds, fun i b hb => ?_, h.sum_length⟩
  simpa only [Nat.zero_add] using h.getElem?_spec i b hb
end

section
/-! The step of the smoothed gain and the blend ramp (44_channel.md R257, R260). -/

namespace Sys2Proof.Flt

theorem not_gt_of_le {f : Fmt} {a b : Flt f} (h : a.le b = true) : ¬a.gt b = true := fun hgt =>
  (key_lt_of_lt hgt).not_ge (le_iff.1 h).2.2

end Sys2Proof.Flt

namespace Sys2Proof.Machine

/-- 0.75 GS and 1.25 GS, each rounded, are in order. -/
theorem gainStep_le {gp : F32} (hf : gp.isFinite = true) (h0 : gp.gt Const.zero = true) :
    (Const.gainStepLo.mul gp).le (Const.gainStepHi.mul gp) = true :=
  Flt.le_of_rounded (Flt.rounded_mul isFormat_b32 (by decide) hf)
    (Flt.rounded_mul isFormat_b32 (by decide) hf)
    (mul_le_mul_of_nonneg_right (Flt.toRat_le_of_le (by decide) (by decide) (by decide))
      (Flt.toRat_pos isFormat_b32 hf h0).le)

/-- The limiter of `GAIN_TARGET` is the clamp of R15 where its bounds are in order: the target is never a
NaN. -/
theorem gainNext_eq_clamp (w : Word) {gp : F32}
    (h : (Const.gainStepLo.mul gp).le (Const.gainStepHi.mul gp) = true) :
    gainNext w gp = (gainLin ((F32.ofWord w).clamp Const.gainDbMin Const.gainDbMax)).clamp
      (Const.gainStepLo.mul gp) (Const.gainStepHi.mul gp) := by
  have hnan := gainLin_clamp_isNan (F32.ofWord w)
  unfold gainNext
  generalize gainLin _ = gt at *
  rw [Flt.clamp, hnan]
  dsimp only
  by_cases hlt : gt.lt (Const.gainStepLo.mul gp) = true
  · simp [hlt, Flt.not_gt_of_le h]
  · simp [hlt]

/-- The whole step of the blend ramp, `step * k / k`, is exact for every length of a sub-block. -/
theorem blendStep_mul_div : ∀ k, k < 49 → 1 ≤ k → ∀ i : Int, i = 1 ∨ i = -1 →
    ((((Flt.ofInt i).div (Flt.ofNat 16)).mul (Flt.ofNat k)).div (Flt.ofNat k) : F32) =
      (Flt.ofInt i).div (Flt.ofNat 16) := by
  simp only [forall_eq_or_imp, forall_eq]
  decide

/-- A sixteenth more and a sixteenth less are exact on the counter's values. -/
theorem blendStep_add : ∀ xo, xo < 16 →
    ((Flt.ofNat xo).div (Flt.ofNat 16) : F32).add ((Flt.ofInt 1).div (Flt.ofNat 16)) =
      (Flt.ofNat (xo + 1)).div (Flt.ofNat 16) ∧
    ((Flt.ofNat (xo + 1)).div (Flt.ofNat 16) : F32).add ((Flt.ofInt (-1)).div (Flt.ofNat 16)) =
      (Flt.ofNat xo).div (Flt.ofNat 16) := by decide

/-- In the last sample of a sub-block the blend ramp has the whole step added. -/
theorem rampAt_last {k : Nat} (h1 : 1 ≤ k) (h48 : k ≤ 48) (base : F32) {i : Int} (hi : i = 1 ∨ i = -1) :
    rampAt base ((Flt.ofInt i).div (Flt.ofNat 16)) k (k - 1) =
      base.add ((Flt.ofInt i).div (Flt.ofNat 16)) := by
  rw [rampAt, Nat.sub_add_cancel h1, blendStep_mul_div k (Nat.lt_succ_of_le h48) h1 i hi]

end Sys2Proof.Machine
end

section
open Sys2Proof Sys2Proof.Machine

/-- Settles O31: the limiter is a clamp between bounds in order. -/
theorem gainStepIsLimited : Obligations.GainStepIsLimited := by
  unfold Obligations.GainStepIsLimited
  intro w gp hf h0 lo hi gt
  have hle : lo.le hi = true := gainStep_le hf h0
  have hclamp : gainNext w gp = gt.clamp lo hi := gainNext_eq_clamp w hle
  obtain ⟨hlo, hhi, hkey⟩ := Flt.le_iff.1 hle
  obtain ⟨hmin, hmax⟩ := Flt.clamp_mem (v := gt) hlo hhi hkey
  rw [hclamp]
  exact ⟨hmin, hmax, Flt.clamp_of_le_le⟩

/-- Settles O30: the last value of the ramp is the start and the whole step, a sixteenth up or down. -/
theorem blendWeightArrivesExactly : Obligations.BlendWeightArrivesExactly := by
  unfold Obligations.BlendWeightArrivesExactly
  intro k xo h1 h48 hxo
  rw [rampAt_last h1 h48 _ (.inl rfl), rampAt_last h1 h48 _ (.inr rfl)]
  exact blendStep_add xo hxo
end

section
/-! Samples as values (00_scope.md R11): a block is the list of its words' values; stored values are read back,
and a store leaves the words outside it alone. -/

namespace Sys2Proof.Machine

theorem audioBlock_eq_iff {P : Params} {s u : State} {c off k : Nat} :
    s.audioBlock P c off k = u.audioBlock P c off k ↔
      ∀ j, j < k → F32.ofWord (s.audioWord P c (off + j)) = F32.ofWord (u.audioWord P c (off + j)) := by
  simp only [State.audioBlock, List.map_inj_left, List.mem_range]

/-- Two machines that agree on the first `n` samples agree on every block within them. -/
theorem audioBlock_eq_of_within {P : Params} {s u : State} {c n off k : Nat}
    (h : s.audioBlock P c 0 n = u.audioBlock P c 0 n) (hk : off + k ≤ n) :
    s.audioBlock P c off k = u.audioBlock P c off k :=
  audioBlock_eq_iff.2 fun j hj => by
    simpa only [Nat.zero_add] using audioBlock_eq_iff.1 h (off + j) (by omega)

theorem audioBlock_append (P : Params) (s : State) (c off k l : Nat) :
    s.audioBlock P c off (k + l) = s.audioBlock P c off k ++ s.audioBlock P c (off + k) l := by
  simp only [State.audioBlock, List.range_add, List.map_append, List.map_map, Function.comp_def,
    Nat.add_assoc]

/-- The sub-blocks of a block side by side are the block. -/
theorem Tiling.flatMap_audioBlock {off rem : Nat} {bs : List (Nat × Nat)} (h : Tiling off rem bs)
    (P : Params) (s : State) (c : Nat) :
    (bs.flatMap fun b => s.audioBlock P c b.1 b.2) = s.audioBlock P c off rem := by
  induction h with
  | done => rfl
  | next _ _ ih =>
    rw [List.flatMap_cons, ih, ← audioBlock_append, Nat.add_sub_cancel' (subblockLen_le _)]

/-- Values stored in AUDIO are read back (44_channel.md R263). -/
theorem audioBlock_writeAudio (P : Params) (c off : Nat) (vs : List F32) (s : State) :
    (s.writeAudio P c off vs).audioBlock P c off vs.length = vs := by
  refine List.ext_getElem (by simp) fun j h1 h2 => ?_
  have haddr : audioAddr c (off + j) = audioAddr c off + 4 * j := by simp only [audioAddr]; omega
  simp only [State.audioBlock, State.audioWord, List.getElem_map, List.getElem_range, haddr,
    State.writeAudio_mem, Memory.wordAt_writeFloats P vs _ _ _ _ _ (List.getElem?_eq_getElem h2)]
  exact F32.ofWord_toWord _ _

@[simp] theorem audioBlock_orChg (P : Params) (b : Bool) (s : State) (c off k : Nat) :
    (s.orChg b).audioBlock P c off k = s.audioBlock P c off k := rfl

@[simp] theorem chan_orChg (b : Bool) (s : State) (c : Nat) : (s.orChg b).chan c = s.chan c := rfl

@[simp] theorem chan_writeAudio (P : Params) (c off : Nat) (vs : List F32) (s : State) (d : Nat) :
    (s.writeAudio P c off vs).chan d = s.chan d := rfl

/-- A sub-block of a channel leaves the blocks of other channels alone, and those before and after it. -/
theorem chSubblock_audioBlock_other (P : Params) {b b' : Nat × Nat} {c d : Nat}
    (hb : b.1 + b.2 ≤ Config.bufMax) (hb' : b'.1 + b'.2 ≤ Config.bufMax)
    (h : d ≠ c ∨ b'.1 + b'.2 ≤ b.1 ∨ b.1 + b.2 ≤ b'.1) (s : State) :
    (chSubblock P b.1 b.2 s c).audioBlock P d b'.1 b'.2 = s.audioBlock P d b'.1 b'.2 := by
  rcases chSubblock_cases P b.1 b.2 s c with he | ⟨x, w, chg, -, hw, he⟩ <;> rw [he]
  refine audioBlock_eq_iff.2 fun j hj => congrArg F32.ofWord ?_
  refine Memory.wordAt_writeFloats_other P _ w _ _ _ ?_
  simp only [Config.bufMax] at hb hb'
  simp only [audioAddr]
  omega

end Sys2Proof.Machine
end

section
/-! One channel's sub-blocks (44_channel.md R253): what a sub-block of a channel makes of the channel's own
record and samples, and what it leaves of the other channels'. -/

namespace Sys2Proof.Machine

/-- One sub-block of a channel: a channel that stays off keeps its record and its samples (44_channel.md
R255). -/
def Chan.runBlock (P : Params) (r : Controls) (rate : F32) (x : Chan) (d : List F32) :
    Chan × List F32 × Bool :=
  (x.subblock P r rate d).getD (x, d, false)

@[simp] theorem Chan.runBlocks_nil (P : Params) (r : Controls) (rate : F32) (x : Chan) :
    Chan.runBlocks P r rate x [] = (x, [], false) := rfl

theorem Chan.runBlocks_cons (P : Params) (r : Controls) (rate : F32) (x : Chan) (d : List F32)
    (ds : List (List F32)) :
    Chan.runBlocks P r rate x (d :: ds) =
      ((Chan.runBlocks P r rate (x.runBlock P r rate d).1 ds).1,
        (x.runBlock P r rate d).2.1 ++ (Chan.runBlocks P r rate (x.runBlock P r rate d).1 ds).2.1,
        (x.runBlock P r rate d).2.2 || (Chan.runBlocks P r rate (x.runBlock P r rate d).1 ds).2.2) := by
  rw [Chan.runBlocks, Chan.runBlock]
  cases x.subblock P r rate d <;> simp

/-- The sub-blocks `bs` of channel `c` alone, on its record and its samples: `State.processed` for any list of
sub-blocks. -/
def State.channelRun (P : Params) (s : State) (bs : List (Nat × Nat)) (c : Nat) :
    Chan × List F32 × Bool :=
  Chan.runBlocks P s.ctl s.rateF (s.chan c) (bs.map fun b => s.audioBlock P c b.1 b.2)

/-- A channel's run depends on the parameter registers, the rate, its record and its samples only
(44_channel.md R264). -/
theorem channelRun_congr {P : Params} {s u : State} {bs : List (Nat × Nat)} {c : Nat}
    (hctl : u.ctl = s.ctl) (hrate : u.rate = s.rate) (hchan : u.chan c = s.chan c)
    (haudio : ∀ b ∈ bs, u.audioBlock P c b.1 b.2 = s.audioBlock P c b.1 b.2) :
    u.channelRun P bs c = s.channelRun P bs c := by
  rw [State.channelRun, State.channelRun, hctl, hchan, List.map_congr_left haudio, State.rateF,
    State.rateF, hrate]

theorem channelRun_singleton (P : Params) (s : State) (b : Nat × Nat) (c : Nat) :
    s.channelRun P [b] c =
      (s.chan c).runBlock P s.ctl s.rateF (s.audioBlock P c b.1 b.2) := by
  simp [State.channelRun, Chan.runBlocks_cons]

/-- A channel's run is its first sub-block and the run from a machine `v` where that sub-block is done. -/
theorem channelRun_cons {P : Params} {s v : State} {b : Nat × Nat} {bs : List (Nat × Nat)} {c : Nat}
    (hctl : v.ctl = s.ctl) (hrate : v.rate = s.rate) (hchan : v.chan c = (s.channelRun P [b] c).1)
    (haudio : ∀ d ∈ bs, v.audioBlock P c d.1 d.2 = s.audioBlock P c d.1 d.2) :
    s.channelRun P (b :: bs) c =
      ((v.channelRun P bs c).1, (s.channelRun P [b] c).2.1 ++ (v.channelRun P bs c).2.1,
        (s.channelRun P [b] c).2.2 || (v.channelRun P bs c).2.2) := by
  rw [channelRun_singleton] at *
  rw [State.channelRun, List.map_cons, Chan.runBlocks_cons, State.channelRun, hctl, hchan,
    List.map_congr_left haudio, State.rateF, State.rateF, hrate]

/-- What a sub-block of a channel makes of the channel's own record and samples and of CHG. -/
theorem chSubblock_self (P : Params) (b : Nat × Nat) {s : State} {c : Nat} (hc : c < s.ch.length) :
    (chSubblock P b.1 b.2 s c).chan c = (s.channelRun P [b] c).1 ∧
    (chSubblock P b.1 b.2 s c).audioBlock P c b.1 b.2 = (s.channelRun P [b] c).2.1 ∧
    (chSubblock P b.1 b.2 s c).chg = (s.chg || (s.channelRun P [b] c).2.2) := by
  rw [channelRun_singleton, Chan.runBlock, chSubblock]
  cases h : (s.chan c).subblock P s.ctl s.rateF (s.audioBlock P c b.1 b.2) with
  | none => simp
  | some r =>
    obtain ⟨x, w, chg⟩ := r
    have hw : b.2 = w.length := by simpa using (Chan.subblock_some h).1.symm
    simp [chan_setChan x hc, hw, audioBlock_writeAudio]

/-- A sub-block of one channel does not touch another channel's run. -/
theorem chSubblock_channelRun_other (P : Params) {b : Nat × Nat} {bs : List (Nat × Nat)} {c d : Nat}
    (hb : b.1 + b.2 ≤ Config.bufMax) (hbs : ∀ b' ∈ bs, b'.1 + b'.2 ≤ Config.bufMax) (h : d ≠ c)
    (s : State) : (chSubblock P b.1 b.2 s c).channelRun P bs d = s.channelRun P bs d :=
  have hsame := chSubblock_same P b.1 b.2 s c
  channelRun_congr hsame.ctl hsame.rate (chSubblock_chan_other P _ _ s h)
    fun b' hb' => chSubblock_audioBlock_other P hb (hbs b' hb') (.inl h) s

end Sys2Proof.Machine
end

section
/-! `process` runs every channel's sub-blocks on that channel alone (44_channel.md R251, R264). -/

namespace Sys2Proof.Machine

/-- What no step of a fold changes, the fold does not change. -/
theorem foldl_unchanged {α β γ : Type} {f : β → α → β} (g : β → γ) {xs : List α}
    (h : ∀ s, ∀ x ∈ xs, g (f s x) = g s) (s : β) : g (xs.foldl f s) = g s :=
  foldl_rel (R := fun s t => g t = g s) (fun _ => rfl) (fun _ _ _ h h' => h'.trans h) xs h s

/-- What every step of a fold leaves as it is, the fold leaves as it is. -/
theorem foldl_fixed {α β : Type} {f : β → α → β} {s : β} {xs : List α} (h : ∀ x ∈ xs, f s x = s) :
    xs.foldl f s = s :=
  foldl_rel (R := fun u v => u = s → v = s) (fun _ => id) (fun _ _ _ g h => h ∘ g) xs
    (fun _ x hx hu => hu ▸ h x hx) s rfl

theorem any_range_or {m : Nat} {p q r : Nat → Bool} (h : ∀ c, c < m → r c = (p c || q c)) :
    (List.range m).any r = ((List.range m).any p || (List.range m).any q) := by
  induction m with
  | zero => rfl
  | succ m ih =>
    simp only [List.range_succ, List.any_append, List.any_cons, List.any_nil, Bool.or_false,
      ih fun c hc => h c (hc.trans m.lt_succ_self), h m m.lt_succ_self]
    ac_rfl

/-- Every active channel has a record. -/
theorem nchan_le_ch_length {s : State} (h : s.Inv) : s.nchan.val ≤ s.ch.length :=
  (Nat.lt_succ_iff.1 s.nchan.isLt).trans_eq h.ch_length.symm

/-- From `s` to `t` the first `m` channels ran the sub-blocks `bs`, each on its own record and samples, and CHG
took in whether a coefficient was recomputed. -/
structure ChannelsRan (P : Params) (m : Nat) (bs : List (Nat × Nat)) (s t : State) : Prop where
  chan : ∀ c, c < m → t.chan c = (s.channelRun P bs c).1
  audio : ∀ c, c < m →
    (bs.flatMap fun b => t.audioBlock P c b.1 b.2) = (s.channelRun P bs c).2.1
  chg : t.chg = (s.chg || (List.range m).any fun c => (s.channelRun P bs c).2.2)

/-- One sub-block, channel after channel. -/
theorem foldl_chSubblock_ran (P : Params) {b : Nat × Nat} (hb : b.1 + b.2 ≤ Config.bufMax) (s : State) :
    ∀ m, m ≤ s.ch.length → ChannelsRan P m [b] s ((List.range m).foldl (chSubblock P b.1 b.2) s) := by
  intro m
  induction m with
  | zero => exact fun _ => ⟨nofun, nofun, by simp⟩
  | succ m ih =>
    intro hm
    rw [List.range_succ, List.foldl_append, List.foldl_cons, List.foldl_nil]
    have hran := ih (by omega)
    have hsame : SameButAudio s ((List.range m).foldl (chSubblock P b.1 b.2) s) :=
      foldl_rel SameButAudio.refl (fun _ _ _ => SameButAudio.trans) _
        (fun u c _ => chSubblock_same P b.1 b.2 u c) s
    have hrun : ((List.range m).foldl (chSubblock P b.1 b.2) s).channelRun P [b] m =
        s.channelRun P [b] m :=
      foldl_unchanged (·.channelRun P [b] m)
        (fun u c hc => chSubblock_channelRun_other P hb (by simpa using hb)
          (List.mem_range.1 hc).ne' u) s
    generalize (List.range m).foldl (chSubblock P b.1 b.2) s = u at *
    obtain ⟨hchan, haudio, hchg⟩ := chSubblock_self P b (s := u) (c := m) (by rw [hsame.ch_length]; omega)
    rw [hrun] at hchan haudio hchg
    refine ⟨fun c hc => ?_, fun c hc => ?_, ?_⟩
    · rcases Nat.lt_succ_iff_lt_or_eq.1 hc with hlt | rfl
      · rw [chSubblock_chan_other P _ _ u hlt.ne, hran.chan c hlt]
      · exact hchan
    · rcases Nat.lt_succ_iff_lt_or_eq.1 hc with hlt | rfl
      · rw [← hran.audio c hlt, List.flatMap_singleton, List.flatMap_singleton,
          chSubblock_audioBlock_other P hb hb (.inl hlt.ne)]
      · rw [List.flatMap_singleton, haudio]
    · rw [hchg, hran.chg, List.range_succ, List.any_append, List.any_cons, List.any_nil, Bool.or_false,
        Bool.or_assoc]

/-- One sub-block of every channel leaves the blocks before and after it alone. -/
theorem subblockAll_audioBlock_other (P : Params) {b b' : Nat × Nat} (hb : b.1 + b.2 ≤ Config.bufMax)
    (hb' : b'.1 + b'.2 ≤ Config.bufMax) (h : b'.1 + b'.2 ≤ b.1 ∨ b.1 + b.2 ≤ b'.1) (s : State) (c : Nat) :
    (subblockAll P s b).audioBlock P c b'.1 b'.2 = s.audioBlock P c b'.1 b'.2 :=
  foldl_unchanged (·.audioBlock P c b'.1 b'.2)
    (fun u _ _ => chSubblock_audioBlock_other P hb hb' (.inr h) u) s

/-- The loops of `process` interchanged: sub-blocks that follow one another leave each other's samples alone,
so every channel runs its own. -/
theorem foldl_subblockAll_ran (P : Params) {bs : List (Nat × Nat)} :
    ∀ {s : State}, (∀ b ∈ bs, b.1 + b.2 ≤ Config.bufMax) →
      (bs.Pairwise fun b d => b.1 + b.2 ≤ d.1) → s.nchan.val ≤ s.ch.length →
      ChannelsRan P s.nchan.val bs s (bs.foldl (subblockAll P) s) := by
  induction bs with
  | nil => exact fun _ _ _ => ⟨fun _ _ => rfl, fun _ _ => rfl, by simp [State.channelRun]⟩
  | cons b bs ih =>
    intro s hbound hpair hlen
    obtain ⟨hb, hbs⟩ := List.forall_mem_cons.1 hbound
    obtain ⟨hafter, hpair'⟩ := List.pairwise_cons.1 hpair
    have hsame := subblockAll_same P s b
    have hfirst : ChannelsRan P s.nchan.val [b] s (subblockAll P s b) :=
      foldl_chSubblock_ran P hb s _ hlen
    have hrest := ih (s := subblockAll P s b) hbs hpair' (by rwa [hsame.nchan, hsame.ch_length])
    rw [hsame.nchan] at hrest
    have hcons : ∀ c, c < s.nchan.val → s.channelRun P (b :: bs) c = _ := fun c hc =>
      channelRun_cons hsame.ctl hsame.rate (hfirst.chan c hc)
        fun d hd => subblockAll_audioBlock_other P hb (hbs d hd) (.inr (hafter d hd)) s c
    have hkeep : ∀ c, (bs.foldl (subblockAll P) (subblockAll P s b)).audioBlock P c b.1 b.2 =
        (subblockAll P s b).audioBlock P c b.1 b.2 := fun c =>
      foldl_unchanged (·.audioBlock P c b.1 b.2)
        (fun u d hd => subblockAll_audioBlock_other P (hbs d hd) hb (.inl (hafter d hd)) u c) _
    rw [List.foldl_cons]
    refine ⟨fun c hc => ?_, fun c hc => ?_, ?_⟩
    · rw [hrest.chan c hc, hcons c hc]
    · rw [List.flatMap_cons, hrest.audio c hc, hcons c hc, hkeep, ← hfirst.audio c hc,
        List.flatMap_singleton]
    · rw [hrest.chg, hfirst.chg, Bool.or_assoc,
        ← any_range_or fun c hc => congrArg (·.2.2) (hcons c hc)]

end Sys2Proof.Machine
end

section
open Sys2Proof Sys2Proof.Machine

/-- Settles O25: the loop interchange on the sub-blocks of a block, whose samples side by side are the block. -/
theorem processRunsEachChannelsSubblocks : Obligations.ProcessRunsEachChannelsSubblocks := by
  unfold Obligations.ProcessRunsEachChannelsSubblocks
  intro s n hInv hi hn
  have hbound : ∀ b ∈ subblocks n, b.1 + b.2 ≤ Config.bufMax := fun b hb => (mem_subblocks hb).trans hn
  have htile := tiling_subblocks n
  have hlen := nchan_le_ch_length hInv
  have hran := foldl_subblockAll_ran Config.params (s := { s with chg := false }) hbound
    htile.pairwise hlen
  refine ⟨processSamples Config.params n s, exec_of_inRange (i := .process n) hi rfl hn,
    fun c hc => ⟨hran.chan c hc, ?_⟩, ?_⟩
  · exact (htile.flatMap_audioBlock _ _ c).symm.trans (hran.audio c hc)
  · exact hran.chg.trans (Bool.false_or _)

/-- Settles O26: a channel's run reads only what the two machines agree on. -/
theorem channelsDoNotInterfere : Obligations.ChannelsDoNotInterfere := by
  unfold Obligations.ChannelsDoNotInterfere
  intro s u n c hs hu hsi hui hn hcs hcu hctl hrate hchan haudio
  obtain ⟨s', hs', hsrun, -⟩ := processRunsEachChannelsSubblocks s n hs hsi hn
  obtain ⟨u', hu', hurun, -⟩ := processRunsEachChannelsSubblocks u n hu hui hn
  obtain ⟨hschan, hsaudio⟩ := hsrun c hcs
  obtain ⟨huchan, huaudio⟩ := hurun c hcu
  have hrun : u.processed Config.params c n = s.processed Config.params c n :=
    channelRun_congr hctl hrate hchan fun b hb => audioBlock_eq_of_within haudio (mem_subblocks hb)
  exact ⟨s', u', hs', hu', by rw [huchan, hrun, hschan], by rw [huaudio, hrun, hsaudio]⟩
end

section
/-! The crossfade counter (44_channel.md R254, R255). -/

namespace Sys2Proof.Machine

theorem xfStep_true {xf : Nat} (h : xf ≤ 16) : xfStep true xf = min 16 (xf + 1) := by
  simp only [xfStep, Config.xfSteps, not_true_eq_false, false_and, if_false, true_and]
  split <;> omega

theorem xfStep_false (xf : Nat) : xfStep false xf = xf - 1 := by
  cases xf <;> simp [xfStep]

/-- A sub-block has no effect exactly where the counter is and stays 0 (44_channel.md R255). -/
theorem Chan.subblock_eq_none_iff {P : Params} {r : Controls} {rate : F32} {x : Chan} {d : List F32} :
    x.subblock P r rate d = none ↔ x.xf = 0 ∧ xfStep r.globalEn x.xf = 0 := by
  rw [Chan.subblock]
  split
  case isTrue h => exact iff_of_true rfl h
  case isFalse h => exact iff_of_false nofun h

/-- A sub-block moves the counter by `XF_STEP`, also where it has no other effect. -/
theorem Chan.runBlock_xf (P : Params) (r : Controls) (rate : F32) (x : Chan) (d : List F32) :
    (x.runBlock P r rate d).1.xf = xfStep r.globalEn x.xf := by
  rw [Chan.runBlock]
  cases h : x.subblock P r rate d with
  | none =>
    obtain ⟨h0, h1⟩ := Chan.subblock_eq_none_iff.1 h
    exact h0.trans h1.symm
  | some _ => exact (Chan.subblock_some h).2.1

theorem Chan.runBlocks_xf (P : Params) (r : Controls) (rate : F32) (ds : List (List F32)) :
    ∀ x : Chan, (Chan.runBlocks P r rate x ds).1.xf = (xfStep r.globalEn)^[ds.length] x.xf := by
  induction ds with
  | nil => exact fun _ => rfl
  | cons d ds ih => exact fun x => by rw [Chan.runBlocks_cons, ih, Chan.runBlock_xf]; rfl

theorem xfStep_true_iterate (n : Nat) : ∀ {xf : Nat}, xf ≤ 16 →
    (xfStep true)^[n] xf = min 16 (xf + n) := by
  induction n with
  | zero => exact fun h => (Nat.min_eq_right h).symm
  | succ n ih =>
    intro xf h
    rw [Function.iterate_succ_apply, xfStep_true h, ih (Nat.min_le_left ..)]
    omega

theorem xfStep_false_iterate (n : Nat) : ∀ xf : Nat, (xfStep false)^[n] xf = xf - n := by
  induction n with
  | zero => exact fun _ => rfl
  | succ n ih =>
    intro xf
    rw [Function.iterate_succ_apply, xfStep_false, ih]
    omega

/-- A channel that is off and disabled stays as it is, samples included (44_channel.md R255). -/
theorem chSubblock_of_off (P : Params) (off k : Nat) {s : State} {c : Nat} (hen : s.ctl.globalEn = false)
    (hxf : (s.chan c).xf = 0) : chSubblock P off k s c = s := by
  have h : (s.chan c).subblock P s.ctl s.rateF (s.audioBlock P c off k) = none :=
    Chan.subblock_eq_none_iff.2 ⟨hxf, by rw [hen, hxf]; rfl⟩
  rw [chSubblock, h]

end Sys2Proof.Machine
end

section
open Sys2Proof Sys2Proof.Machine

/-- Settles O27: no sub-block of a channel that is off and disabled does anything. -/
theorem fullyOffOnlyClearsChg : Obligations.FullyOffOnlyClearsChg := by
  unfold Obligations.FullyOffOnlyClearsChg
  intro s n hi hn hen hxf
  rw [exec_of_inRange (i := .process n) hi rfl hn]
  refine congrArg _ (foldl_fixed fun b _ => foldl_fixed fun c hc => ?_)
  exact chSubblock_of_off _ _ _ (s := { s with chg := false }) hen (hxf c (List.mem_range.1 hc))

/-- Settles O28: the counter after the channel's own sub-blocks is `XF_STEP` iterated. -/
theorem crossfadeCounterMoves : Obligations.CrossfadeCounterMoves := by
  unfold Obligations.CrossfadeCounterMoves
  intro s n c hInv hi hn hc
  obtain ⟨t, ht, hrun, -⟩ := processRunsEachChannelsSubblocks s n hInv hi hn
  have hxf : (t.chan c).xf = (xfStep s.ctl.globalEn)^[(subblocks n).length] (s.chan c).xf := by
    rw [(hrun c hc).1, State.processed, Chan.runBlocks_xf, List.length_map]
  have hle : (s.chan c).xf ≤ 16 := (hInv.ch_ok _ (State.chan_mem
    (hc.trans_le (nchan_le_ch_length hInv)))).xf_le
  refine ⟨t, ht, fun hen => ?_, fun hen => ?_⟩
  · rw [hxf, hen, xfStep_true_iterate _ hle]
  · rw [hxf, hen, xfStep_false_iterate]
end

section
/-! The settings and the clearing of the analyser (45_analyser.md R284, R298 to R303): the words of `an.skip`
and `an.clrpeak` whose reserved fields are not 0, the length rule, and a clamp between two patterns. -/

namespace Sys2Proof.Machine

theorem decode_anSkip_reserved {w : Word} (hopc : w.opc = 0x21) (hsel : w.sel ≠ 0) :
    decode w = .error .reservedField := by
  simp [decode, hopc, reserved, hsel]

theorem decode_anClrpeak_reserved {w : Word} (hopc : w.opc = 0x25) (hne : w ≠ 0x25000000) :
    decode w = .error .reservedField := by
  have hfields : w.sel = 0 → w.imm ≠ 0 := fun hsel himm =>
    hne (Word.eq_iff_fields.2 ⟨hopc, hsel, himm⟩)
  simpa [decode, hopc, reserved] using hfields

theorem anLength_pow_range (n : Nat) : ∃ k, 4 ≤ k ∧ k ≤ 13 ∧ anLength n = 2 ^ k := by
  obtain ⟨k, hk⟩ := anLength_pow n
  obtain ⟨hmin, hmax⟩ := anLength_range n
  rw [hk] at hmin hmax
  exact ⟨k, (Nat.pow_le_pow_iff_right one_lt_two).1 hmin,
    (Nat.pow_le_pow_iff_right one_lt_two).1 hmax, hk⟩

/-- A stored pattern clamped between two patterns is one of the three patterns (00_scope.md R15). -/
theorem clamp_toWord {lo hi : Word} (h : (F32.ofWord lo).le (F32.ofWord hi) = true) (w nan : Word) :
    ((F32.ofWord w).clamp (F32.ofWord lo) (F32.ofWord hi)).toWord nan =
      if (F32.ofWord w).isNan = true ∨ (F32.ofWord w).lt (F32.ofWord lo) = true then lo
      else if (F32.ofWord hi).lt (F32.ofWord w) = true then hi else w := by
  obtain ⟨hlo, hhi, -⟩ := Flt.le_iff.1 h
  split
  case isTrue hlow => rw [Flt.clamp_of_isNan_or_lt hlow, F32.toWord_ofWord hlo]
  case isFalse hlow =>
    obtain ⟨hnan, hlt⟩ := not_or.1 hlow
    split
    case isTrue hgt => rw [Flt.clamp_of_gt h hgt, F32.toWord_ofWord hhi]
    case isFalse hgt =>
      rw [Flt.clamp, if_neg hnan, if_neg hlt, Flt.gt, if_neg hgt,
        F32.toWord_ofWord (by simpa using hnan)]

/-- The bounds of R300 are the patterns of -0.99 and 0.99. -/
theorem Analyser.setWarp_wfact (a : Analyser) (nan w : Word) :
    (a.setWarp nan (F32.ofWord w)).wfact =
      if (F32.ofWord w).isNan = true ∨ (F32.ofWord w).lt (F32.ofWord 0xBF7D70A4) = true then 0xBF7D70A4
      else if (F32.ofWord 0x3F7D70A4).lt (F32.ofWord w) = true then 0x3F7D70A4 else w := by
  have hlo : (Const.warpMax.neg : F32) = F32.ofWord 0xBF7D70A4 := by decide
  have hhi : (Const.warpMax : F32) = F32.ofWord 0x3F7D70A4 := by decide
  rw [← clamp_toWord (by decide) w nan, ← hlo, ← hhi]
  rfl

/-- The bounds of R301 are the patterns of 0.001 and 100. -/
theorem Analyser.setSpeed_speed (P : Params) (a : Analyser) (nan w : Word) (rate : F32) :
    (a.setSpeed P nan (F32.ofWord w) rate).speed =
      if (F32.ofWord w).isNan = true ∨ (F32.ofWord w).lt (F32.ofWord 0x3A83126F) = true then 0x3A83126F
      else if (F32.ofWord 0x42C80000).lt (F32.ofWord w) = true then 0x42C80000 else w := by
  have hlo : (Const.speedMin : F32) = F32.ofWord 0x3A83126F := by decide
  have hhi : (Const.speedMax : F32) = F32.ofWord 0x42C80000 := by decide
  rw [← clamp_toWord (by decide) w nan, ← hlo, ← hhi]
  rfl

end Sys2Proof.Machine
end

section
open Sys2Proof Sys2Proof.Machine

/-- Settles O36: the exponent is the binary logarithm of the clamped request. -/
theorem lengthIsTheLargestPowerOfTwo : Obligations.LengthIsTheLargestPowerOfTwo := by
  unfold Obligations.LengthIsTheLargestPowerOfTwo
  intro n
  have hpos : min (max n 16) 8192 ≠ 0 := by omega
  refine ⟨anLength_pow_range n, Nat.log2_self_le hpos, ?_⟩
  rw [anLength, ← Nat.pow_succ']
  exact Nat.lt_log2_self

/-- Settles O35: the word by its fields, then the two answers of the shared check. -/
theorem anSkipAdvancesTheWritePosition : Obligations.AnSkipAdvancesTheWritePosition := by
  unfold Obligations.AnSkipAdvancesTheWritePosition
  refine ⟨fun n hn => ?_, fun w s hopc hsel => ?_, fun s n => ⟨fun hi => ?_, fun hi => ?_⟩⟩
  · exact decode_encode_of_wellFormed (i := .anSkip n) (decide_eq_true hn)
  · exact execute_of_decode_error (decode_anSkip_reserved hopc hsel) s
  · exact exec_of_errorOf (errorOf_notInit hi rfl)
  · exact exec_of_inRange hi rfl trivial

/-- Settles O37: the effect is AN_LENGTH, AN_CLEAR and AN_ASM. -/
theorem anSetlenClearsTheTraces : Obligations.AnSetlenClearsTheTraces := by
  unfold Obligations.AnSetlenClearsTheTraces
  exact fun s n hi => exec_of_inRange hi rfl trivial

/-- Settles O40: the word by its fields, then the two answers of the shared check. -/
theorem anClrpeakClearsThePeakTrace : Obligations.AnClrpeakClearsThePeakTrace := by
  unfold Obligations.AnClrpeakClearsThePeakTrace
  refine ⟨by decide, fun w s hopc hne => ?_, fun s => ⟨fun hi => ?_, fun hi => ?_⟩⟩
  · exact execute_of_decode_error (decode_anClrpeak_reserved hopc hne) s
  · exact exec_of_errorOf (errorOf_notInit hi rfl)
  · exact ⟨_, exec_of_inRange hi rfl trivial, rfl, fun _ k => zeroTrace_getD k⟩

/-- Settles O38: the effect is the clamp of the operand and AN_CLEAR. -/
theorem anSetwarpStoresTheClampedFactor : Obligations.AnSetwarpStoresTheClampedFactor := by
  unfold Obligations.AnSetwarpStoresTheClampedFactor
  exact fun s hi => ⟨_, exec_of_inRange hi rfl trivial, rfl, s.an.setWarp_wfact _ s.arg0⟩

/-- Settles O39: the effect is the clamp of the operand and AN_ASM. -/
theorem anSetspeedStoresTheClampedConstant : Obligations.AnSetspeedStoresTheClampedConstant := by
  unfold Obligations.AnSetspeedStoresTheClampedConstant
  exact fun s hi =>
    ⟨_, exec_of_inRange hi rfl trivial, rfl, s.an.setSpeed_speed Config.params _ s.arg0 _⟩
end

section
/-! The spectrum (45_analyser.md R289 to R291): the bins of a transform, the symmetries of the kernels, and the
four conjugate bins at each edge. -/

namespace Sys2Proof.Flt

protected theorem neg_neg {f : Fmt} (a : Flt f) : a.neg.neg = a := by
  cases a with
  | nan => rfl
  | num s m => rw [neg, neg, Bool.not_not]

end Sys2Proof.Flt

namespace Sys2Proof.Machine

/-- A zero of either sign in both parts. -/
def IsZeroBin (z : C32) : Prop := z.re.isZero = true ∧ z.im.isZero = true

@[simp] theorem fftR2C_length (P : Params) (v : List F32) : (fftR2C P v).length = v.length / 2 + 1 := by
  simp [fftR2C]

theorem fftR2C_getD (P : Params) (v : List F32) {k : Nat} (hk : k ≤ v.length / 2) :
    (fftR2C P v).getD k Cplx.zero =
      if v.all Flt.isZero then
        ⟨Flt.zero (P.fft.run v k).re.sign, Flt.zero (P.fft.run v k).im.sign⟩
      else P.fft.run v k := by
  rw [List.getD_eq_getElem _ _ (by simp; omega)]
  simp [fftR2C]

theorem fftR2C_isZero (P : Params) {v : List F32} (hv : ∀ x ∈ v, x.isZero = true) :
    ∀ b ∈ fftR2C P v, IsZeroBin b := by
  intro b hb
  obtain ⟨k, -, rfl⟩ := List.mem_map.1 hb
  rw [if_pos (List.all_eq_true.2 hv)]
  exact ⟨rfl, rfl⟩

theorem conv0_symmetric (P : Params) {j : Nat} (hj : j ≤ 8) : conv0 P j = conv0 P (8 - j) := by
  rw [conv0, conv0, Nat.sub_sub_self hj, min_comm]

theorem conv1_antisymmetric (P : Params) {j : Nat} (hj : j ≤ 7) : conv1 P j = (conv1 P (7 - j)).neg := by
  unfold conv1
  rcases lt_or_ge j 4 with h | h
  · rw [if_pos h, if_neg (by omega), Nat.sub_sub_self hj, Flt.neg_neg]
  · rw [if_neg (by omega), if_pos (by omega)]

/-- What holds of the entries of a list and of the default holds of any entry read. -/
theorem getD_of_forall {α : Type} {p : α → Prop} {l : List α} {d : α} (h : ∀ x ∈ l, p x) (hd : p d)
    (k : Nat) : p (l.getD k d) := by
  rcases lt_or_ge k l.length with hk | hk
  · rw [List.getD_eq_getElem _ _ hk]
    exact h _ (List.getElem_mem hk)
  · rwa [List.getD_eq_default _ _ hk]

theorem toRat_getD_of_isZero {v : List F32} (hv : ∀ x ∈ v, x.isZero = true) (n : Nat) :
    (v.getD n (Flt.zero false)).toRat = 0 :=
  Flt.toRat_of_isZero isFormat_b32 (getD_of_forall hv rfl n)

/-- The exact transform of the zero vector is zero. -/
theorem dft_of_isZero {v : List F32} (hv : ∀ x ∈ v, x.isZero = true) (k : Nat) :
    dftRe v k = 0 ∧ dftIm v k = 0 := by
  simp only [dftRe, dftIm, toRat_getD_of_isZero hv, Rat.cast_zero, zero_mul, Finset.sum_const_zero,
    neg_zero, and_self]

/-- A bound that holds of any answer is no less than the error of a zero answer to an exact zero. -/
theorem near_zero_of_near {bound : Rat} {c : F32} (h : Near bound 0 c) (s : Bool) :
    Near bound 0 (Flt.zero s) := by
  intro hlt
  obtain ⟨-, hb⟩ := h hlt
  rw [Flt.toRat_of_isZero isFormat_b32 (show (Flt.zero s : F32).isZero = true from rfl)]
  exact ⟨rfl, by simpa using (abs_nonneg _).trans hb⟩

/-- Zeros for the zero vector keep the parameter's bound (R289). -/
theorem fftR2C_within (P : Params) :
    WithinBound (fun v k => (fftR2C P v).getD k Cplx.zero) P.fft.bound := by
  intro v k hv hk
  have hrun := P.fft.within v k hv hk
  simp only [fftR2C_getD P v hk]
  split
  case isFalse => exact hrun
  case isTrue h0 =>
    obtain ⟨hre, him⟩ := dft_of_isZero (List.all_eq_true.1 h0) k
    rw [hre, him] at hrun ⊢
    exact ⟨near_zero_of_near hrun.1 _, near_zero_of_near hrun.2 _⟩

theorem some_getD {X : List C32} {k : Nat} (hk : k < X.length) (d : C32) :
    some (X.getD k d) = X[k]? := by
  rw [List.getD_eq_getElem _ _ hk, List.getElem?_eq_getElem hk]

section
variable (X : List C32) (h : Nat)

theorem extendAt_natCast {k : Nat} (hk : k ≤ h) : extendAt X h k = X.getD k Cplx.zero := by
  rw [extendAt, if_neg (by omega), if_pos (by omega), Int.toNat_natCast]

theorem extendAt_below {j : Nat} (hj : 1 ≤ j) : extendAt X h (-(j : Int)) = (X.getD j Cplx.zero).conj := by
  rw [extendAt, if_pos (by omega), neg_neg, Int.toNat_natCast]

theorem extendAt_above {j : Nat} (hj : 1 ≤ j) :
    extendAt X h ((h : Int) + j) = (X.getD (h - j) Cplx.zero).conj := by
  rw [extendAt, if_neg (by omega), if_neg (by omega),
    show (2 * (h : Int) - (h + j)).toNat = h - j by omega]
end

end Sys2Proof.Machine
end

section
open Sys2Proof Sys2Proof.Machine

/-- Settles O41, one lemma for each symmetry; the bound is the parameter's own, which zeros keep. -/
theorem spectrumSymmetries : Obligations.SpectrumSymmetries := by
  unfold Obligations.SpectrumSymmetries
  refine ⟨fun P => ⟨fun _ => conv0_symmetric P, fun _ => conv1_antisymmetric P,
    fun v => ⟨fftR2C_length P v, fftR2C_isZero P⟩, fftR2C_within P⟩, fun X h h8 hX =>
    ⟨fun k hk => ?_, fun j h1 h4 => ⟨?_, ?_⟩⟩⟩
  · rw [extendAt_natCast X h hk, some_getD (by omega)]
  · rw [extendAt_below X h h1, ← some_getD (by omega) Cplx.zero, Option.map_some]
  · rw [extendAt_above X h h1, ← some_getD (by omega) Cplx.zero, Option.map_some]
end

section
/-! Pushed samples (45_analyser.md R281 to R283): `an.write` is a sequence of pushes, each of which stores its
sample in the ring buffer, counts it, and runs a pass when the count reaches L/2. -/

namespace Sys2Proof.Machine

/-- The analyser with a sample stored and counted, before the test for a pass (45_analyser.md R282). -/
def Analyser.store (w : Word) (a : Analyser) : Analyser :=
  { a with ipbuf := a.ipbuf.set a.wr w, wr := (a.wr + 1) % Config.ipSize, pend := a.pend + 1 }

section
variable {P : Params} {phold : Bool} {x : Analyser × Nat} {w : Word}

theorem anPush_of_pass (h : x.1.pend + 1 = x.1.len / 2) :
    anPush P phold x w =
      ({ anPass P phold x.2 (x.1.store w) with pend := 0 }, x.2 + (x.1.len / 2 + 2)) := if_pos h

theorem anPush_of_no_pass (h : x.1.pend + 1 ≠ x.1.len / 2) :
    anPush P phold x w = (x.1.store w, x.2) := if_neg h

/-- A push keeps the settings, pass or not. -/
theorem anPush_settings : (anPush P phold x w).1.len = x.1.len ∧
    (anPush P phold x w).1.wfact = x.1.wfact ∧ (anPush P phold x w).1.speed = x.1.speed ∧
    (anPush P phold x w).1.asm = x.1.asm := by
  by_cases h : x.1.pend + 1 = x.1.len / 2
  · rw [anPush_of_pass h]; exact ⟨rfl, rfl, rfl, rfl⟩
  · rw [anPush_of_no_pass h]; exact ⟨rfl, rfl, rfl, rfl⟩

/-- A push stores its sample at the write position and moves that position on, pass or not. -/
theorem anPush_ring : (anPush P phold x w).1.ipbuf = x.1.ipbuf.set x.1.wr w ∧
    (anPush P phold x w).1.wr = (x.1.wr + 1) % 8192 := by
  by_cases h : x.1.pend + 1 = x.1.len / 2
  · rw [anPush_of_pass h]; exact ⟨rfl, rfl⟩
  · rw [anPush_of_no_pass h]; exact ⟨rfl, rfl⟩

/-- A pass clears the count and sets AN_VALID (45_analyser.md R283, R297). -/
theorem anPush_count : (anPush P phold x w).1.pend =
      (if x.1.pend + 1 = x.1.len / 2 then 0 else x.1.pend + 1) ∧
    (anPush P phold x w).1.valid = (x.1.valid || decide (x.1.pend + 1 = x.1.len / 2)) := by
  by_cases h : x.1.pend + 1 = x.1.len / 2
  · rw [anPush_of_pass h, if_pos h, decide_eq_true h, Bool.or_true]; exact ⟨rfl, rfl⟩
  · rw [anPush_of_no_pass h, if_neg h, decide_eq_false h, Bool.or_false]; exact ⟨rfl, rfl⟩

end

/-- The analyser and the draw counter after the first `n` samples of `w` are pushed. -/
def pushes (P : Params) (phold : Bool) (w : Nat → Word) (x : Analyser × Nat) (n : Nat) : Analyser × Nat :=
  ((List.range n).map w).foldl (anPush P phold) x

theorem writeAnalyser_eq_pushes (P : Params) (c n : Nat) (s : State) :
    writeAnalyser P c n s =
      { s with
        an := (pushes P s.ctl.anPhold (s.audioWord P c) (s.an, s.draws) n).1
        draws := (pushes P s.ctl.anPhold (s.audioWord P c) (s.an, s.draws) n).2 } := rfl

section
variable {P : Params} {phold : Bool} {w : Nat → Word} {x : Analyser × Nat}

theorem pushes_succ (n : Nat) :
    pushes P phold w x (n + 1) = anPush P phold (pushes P phold w x n) (w n) := by
  simp [pushes, List.range_succ]

theorem pushes_add (n m : Nat) :
    pushes P phold w x (n + m) = pushes P phold (fun j => w (n + j)) (pushes P phold w x n) m := by
  simp [pushes, List.range_add, Function.comp_def]

theorem pushes_congr {v : Nat → Word} {n : Nat} (h : ∀ j, j < n → v j = w j) :
    pushes P phold v x n = pushes P phold w x n := by
  rw [pushes, List.map_congr_left fun j hj => h j (List.mem_range.1 hj), pushes]

/-- While the count stays below L/2 the samples are only stored. -/
theorem pushes_of_no_pass : ∀ {n : Nat}, x.1.pend + n < x.1.len / 2 →
    pushes P phold w x n =
      ({ x.1 with
        ipbuf := (pushes P phold w x n).1.ipbuf
        wr := (pushes P phold w x n).1.wr
        pend := x.1.pend + n }, x.2) := by
  intro n
  induction n with
  | zero => exact fun _ => rfl
  | succ n ih =>
    intro hn
    have ih := ih (by omega)
    rw [pushes_succ]
    generalize pushes P phold w x n = y at ih ⊢
    obtain ⟨a, d⟩ := y
    obtain ⟨ha, rfl⟩ := Prod.mk.inj ih
    rw [anPush_of_no_pass (by rw [ha]; dsimp only; omega)]
    refine Prod.ext ?_ rfl
    dsimp only
    rw [Analyser.store, ha]
    rfl

end

/-- `new` is the ring buffer `old` with the first `n` samples of `w` stored from position `wr` on. -/
structure RingStored (old : List Word) (wr n : Nat) (w : Nat → Word) (new : List Word) : Prop where
  length_eq : new.length = old.length
  stored : ∀ j, j < n → new.getD ((wr + j) % 8192) 0 = w j
  kept : ∀ k, (∀ j, j < n → k ≠ (wr + j) % 8192) → new.getD k 0 = old.getD k 0

theorem getD_set_self {l : List Word} {i : Nat} (hi : i < l.length) (w : Word) :
    (l.set i w).getD i 0 = w := by
  simp [List.getD_eq_getElem?_getD, hi]

theorem getD_set_ne {l : List Word} {i k : Nat} (h : k ≠ i) (w : Word) :
    (l.set i w).getD k 0 = l.getD k 0 := by
  simp [List.getD_eq_getElem?_getD, List.getElem?_set_ne h.symm]

theorem RingStored.zero (old : List Word) (wr : Nat) (w : Nat → Word) : RingStored old wr 0 w old :=
  ⟨rfl, nofun, fun _ _ => rfl⟩

/-- Up to 8192 samples none is overwritten. -/
theorem RingStored.succ {old new : List Word} {wr n : Nat} {w : Nat → Word}
    (h : RingStored old wr n w new) (hold : old.length = 8192) (hn : n < 8192) :
    RingStored old wr (n + 1) w (new.set ((wr + n) % 8192) (w n)) := by
  refine ⟨List.length_set.trans h.length_eq, fun j hj => ?_, fun k hk => ?_⟩
  · rcases Nat.lt_succ_iff_lt_or_eq.1 hj with hlt | rfl
    · rw [getD_set_ne (by omega), h.stored j hlt]
    · exact getD_set_self (by rw [h.length_eq, hold]; exact Nat.mod_lt _ (by decide)) _
  · rw [getD_set_ne (hk n n.lt_succ_self), h.kept k fun j hj => hk j (hj.trans n.lt_succ_self)]

/-- What `n` pushes make of the analyser, passes apart. -/
structure Pushed (a : Analyser) (n : Nat) (w : Nat → Word) (b : Analyser) : Prop where
  len_eq : b.len = a.len
  wfact_eq : b.wfact = a.wfact
  speed_eq : b.speed = a.speed
  asm_eq : b.asm = a.asm
  wr_eq : b.wr = (a.wr + n) % 8192
  pend_eq : b.pend = (a.pend + n) % (a.len / 2)
  valid_eq : b.valid = (a.valid || decide (a.len / 2 ≤ a.pend + n))
  ring : RingStored a.ipbuf a.wr n w b.ipbuf

/-- A count modulo `h`, one further. -/
theorem succ_mod_eq_ite {h : Nat} (hh : 0 < h) (x : Nat) :
    (x + 1) % h = if x % h + 1 = h then 0 else x % h + 1 := by
  have hlt := Nat.mod_lt x hh
  rw [← Nat.mod_add_mod]
  split
  case isTrue hx => rw [hx, Nat.mod_self]
  case isFalse hx => exact Nat.mod_eq_of_lt (by omega)

/-- The step to `h` is one that completes a count modulo `h`. -/
theorem le_succ_iff_le_or_mod {h x : Nat} : h ≤ x + 1 ↔ h ≤ x ∨ x % h + 1 = h := by
  rcases lt_or_ge x h with hlt | hge
  · rw [Nat.mod_eq_of_lt hlt]; omega
  · exact iff_of_true (hge.trans x.le_succ) (.inl hge)

theorem Analyser.Ok.half_bounds {a : Analyser} (h : a.Ok) : 8 ≤ a.len / 2 ∧ a.len / 2 ≤ 4096 := by
  have hmin := h.len_min
  have hmax := h.len_max
  simp only [Config.fftMin, Config.fftMax] at hmin hmax
  omega

theorem Analyser.Ok.pushed_zero {a : Analyser} (h : a.Ok) (w : Nat → Word) : Pushed a 0 w a where
  len_eq := rfl
  wfact_eq := rfl
  speed_eq := rfl
  asm_eq := rfl
  wr_eq := (Nat.mod_eq_of_lt h.wr_lt).symm
  pend_eq := (Nat.mod_eq_of_lt h.pend_lt).symm
  valid_eq := by simp [Nat.not_le.2 h.pend_lt]
  ring := .zero _ _ _

theorem Pushed.succ {P : Params} {phold : Bool} {a : Analyser} {n : Nat} {w : Nat → Word}
    {x : Analyser × Nat} (h : Pushed a n w x.1) (ha : a.Ok) (hn : n < 8192) :
    Pushed a (n + 1) w (anPush P phold x (w n)).1 := by
  obtain ⟨hlen, hwfact, hspeed, hasm⟩ := anPush_settings (P := P) (phold := phold) (x := x) (w := w n)
  obtain ⟨hring, hwr⟩ := anPush_ring (P := P) (phold := phold) (x := x) (w := w n)
  obtain ⟨hpend, hvalid⟩ := anPush_count (P := P) (phold := phold) (x := x) (w := w n)
  obtain ⟨hhalf, -⟩ := ha.half_bounds
  rw [h.len_eq, h.pend_eq] at hpend hvalid
  exact {
    len_eq := hlen.trans h.len_eq
    wfact_eq := hwfact.trans h.wfact_eq
    speed_eq := hspeed.trans h.speed_eq
    asm_eq := hasm.trans h.asm_eq
    wr_eq := by rw [hwr, h.wr_eq, Nat.mod_add_mod, Nat.add_assoc]
    pend_eq := by rw [hpend, ← succ_mod_eq_ite (by omega), Nat.add_assoc]
    valid_eq := by
      rw [hvalid, h.valid_eq, Bool.or_assoc, ← Bool.decide_or, ← decide_eq_decide.2 le_succ_iff_le_or_mod]
      rfl
    ring := by rw [hring, h.wr_eq]; exact h.ring.succ ha.ipbuf_length hn }

theorem Analyser.Ok.pushes {a : Analyser} (h : a.Ok) (P : Params) (phold : Bool) (w : Nat → Word)
    (d : Nat) : ∀ {n : Nat}, n ≤ 8192 → Pushed a n w (pushes P phold w (a, d) n).1 := by
  intro n
  induction n with
  | zero => exact fun _ => h.pushed_zero w
  | succ n ih => exact fun hn => pushes_succ (P := P) n ▸ (ih (by omega)).succ h hn

end Sys2Proof.Machine
end

section
open Sys2Proof Sys2Proof.Machine

/-- Settles O32: push by push; below L/2 every push only stores. -/
theorem anWriteAppendsTheSamples : Obligations.AnWriteAppendsTheSamples := by
  unfold Obligations.AnWriteAppendsTheSamples
  intro s c n hInv hi hc hn
  have hp := hInv.an_ok.pushes Config.params s.ctl.anPhold (s.audioWord Config.params c) s.draws hn
  refine ⟨_, exec_of_inRange (i := .anWrite c n) hi rfl ⟨hc, hn⟩, rfl, hp.len_eq, hp.wfact_eq,
    hp.speed_eq, hp.asm_eq, hp.wr_eq, hp.pend_eq, hp.valid_eq, hp.ring.stored, hp.ring.kept, fun hlt => ?_⟩
  have hno := pushes_of_no_pass (P := Config.params) (phold := s.ctl.anPhold)
    (w := s.audioWord Config.params c) (x := (s.an, s.draws)) hlt
  obtain ⟨han, hdraws⟩ := Prod.ext_iff.1 hno
  rw [effectOf, writeAnalyser_eq_pushes]
  dsimp only at han hdraws ⊢
  rw [han]
  exact ⟨hdraws, rfl, rfl, rfl, rfl⟩
end

section
/-! One pass (45_analyser.md R286, R292 to R296): the samples that it takes, and what it makes of the warped
line and of each entry of the traces. -/

namespace Sys2Proof.Machine

/-- The samples that wait and the ones just stored are the L/2 samples of the pass, oldest first. -/
theorem fresh_of_ringStored {a b : Analyser} {n : Nat} {w : Nat → Word} (hlen : b.len = a.len)
    (hwr : b.wr = (a.wr + n) % 8192) (hring : RingStored a.ipbuf a.wr n w b.ipbuf)
    (hhalf : a.len / 2 ≤ 4096) (hwrlt : a.wr < 8192) (h : a.pend + n = a.len / 2) :
    b.fresh = a.pending ++ (List.range n).map fun j => F32.ofWord (w j) := by
  have hsplit : b.len / 2 = a.pend + n := by rw [hlen, h]
  rw [Analyser.fresh, hsplit, hwr, List.range_add, List.map_append, List.map_map, Analyser.pending]
  have hsize : Config.ipSize = 8192 := rfl
  congr 1
  · refine List.map_congr_left fun j hj => ?_
    have hj := List.mem_range.1 hj
    rw [hsize, show ((a.wr + n) % 8192 + 8192 - (a.pend + n) + j) % 8192 =
      (a.wr + 8192 - a.pend + j) % 8192 by omega, hring.kept _ fun i hi => by omega]
  · refine List.map_congr_left fun j hj => ?_
    have hj := List.mem_range.1 hj
    rw [Function.comp_apply, hsize, show ((a.wr + n) % 8192 + 8192 - (a.pend + n) + (a.pend + j)) % 8192 =
      (a.wr + j) % 8192 by omega, hring.stored j hj]

section
variable {P : Params} {phold : Bool} {d : Nat} {a : Analyser} {k : Nat}

theorem newPower_getD (line : List F32) (hk : k ≤ a.len / 2) :
    (a.newPower P d line).getD k 0 =
      (powerUpdate a.asm (F32.ofWord (a.power.getD k 0))
        (binPower P (fftR2C P line) (a.len / 2) k)).toWord (drawNan P d k) := by
  rw [List.getD_eq_getElem _ _ (by simp; omega)]
  simp [Analyser.newPower]

theorem anPass_power_getD (hk : k ≤ a.len / 2) :
    F32.ofWord ((anPass P phold d a).power.getD k 0) =
      powerUpdate a.asm (F32.ofWord (a.power.getD k 0))
        (binPower P (fftR2C P a.warped) (a.len / 2) k) := by
  rw [anPass_power, List.getD_append _ _ _ _ (by simp; omega), newPower_getD _ hk, ofWord_toWord_drawNan]

theorem anPass_power_take :
    (anPass P phold d a).power.take (a.len / 2 + 1) = a.newPower P d a.warped := by
  rw [anPass_power, List.take_left' (Analyser.newPower_length _ _)]

theorem anPass_pmax : F32.ofWord (anPass P phold d a).pmax =
    pmaxUpdate (F32.ofWord a.pmax) ((anPass P phold d a).power.take (a.len / 2 + 1)) := by
  rw [anPass_power_take, anPass, ofWord_toWord_drawNan]

/-- The peak trace holds a new power where it is greater, with AN_PHOLD only (45_analyser.md R296). -/
theorem peakUpdate_getD {power peak : List Word} (hpw : k < power.length) (hpk : k < peak.length) :
    (peakUpdate phold power peak).getD k 0 =
      if phold = true ∧ (F32.ofWord (power.getD k 0)).gt (F32.ofWord (peak.getD k 0)) = true
      then power.getD k 0 else peak.getD k 0 := by
  cases phold with
  | false => simp [peakUpdate]
  | true => simp [peakUpdate, hpw, hpk, List.getD_eq_getElem?_getD]

theorem anPass_peak_getD (hlen : a.len / 2 < a.peak.length) (hk : k ≤ a.len / 2) :
    (anPass P phold d a).peak.getD k 0 =
      if phold = true ∧ (F32.ofWord ((anPass P phold d a).power.getD k 0)).gt
        (F32.ofWord (a.peak.getD k 0)) = true
      then (anPass P phold d a).power.getD k 0 else a.peak.getD k 0 := by
  have htake : (a.peak.take (a.len / 2 + 1)).length = a.len / 2 + 1 := List.length_take_of_le hlen
  have hpw : (a.newPower P d a.warped).length = a.len / 2 + 1 := Analyser.newPower_length _ _
  have hold : (a.peak.take (a.len / 2 + 1)).getD k 0 = a.peak.getD k 0 := by
    rw [List.getD_eq_getElem?_getD, List.getElem?_take_of_lt (by omega), ← List.getD_eq_getElem?_getD]
  rw [anPass_peak, anPass_power, List.getD_append _ _ _ _ (by rw [peakUpdate_length _ (by omega)]; omega),
    List.getD_append _ _ _ _ (by omega), peakUpdate_getD (by omega) (by omega), hold]

theorem anPass_getD_above (hlen : a.len / 2 < a.peak.length) (hk : a.len / 2 < k) :
    (anPass P phold d a).power.getD k 0 = a.power.getD k 0 ∧
      (anPass P phold d a).peak.getD k 0 = a.peak.getD k 0 := by
  have htake : (a.peak.take (a.len / 2 + 1)).length = a.len / 2 + 1 := List.length_take_of_le hlen
  have hpw : (a.newPower P d a.warped).length = a.len / 2 + 1 := Analyser.newPower_length _ _
  rw [anPass_power, anPass_peak]
  exact ⟨getD_append_drop hpw hk, getD_append_drop ((peakUpdate_length _ (by omega)).trans htake) hk⟩

end

theorem audioBlock_zero (P : Params) (s : State) (c n : Nat) :
    s.audioBlock P c 0 n = (List.range n).map fun j => F32.ofWord (s.audioWord P c j) := by
  simp only [State.audioBlock, Nat.zero_add]

/-- The analyser with another ring buffer, write position and count. -/
def Analyser.withRing (ring : List Word) (wr pend : Nat) (a : Analyser) : Analyser :=
  { a with ipbuf := ring, wr := wr, pend := pend }

/-- The pushes that make the count L/2 are stores and then one pass over the stored samples. -/
theorem pushes_pass {P : Params} {phold : Bool} {w : Nat → Word} {a : Analyser} {d n : Nat} (ha : a.Ok)
    (h : a.pend + n = a.len / 2) : ∃ ring wr pend,
      (a.withRing ring wr pend).fresh = a.pending ++ (List.range n).map (fun j => F32.ofWord (w j)) ∧
      (pushes P phold w (a, d) n).1 =
        { anPass P phold d (a.withRing ring wr pend) with pend := 0 } := by
  obtain ⟨hlo, hhi⟩ := ha.half_bounds
  have hlt := ha.pend_lt
  obtain ⟨n, rfl⟩ : ∃ m, n = m + 1 := ⟨n - 1, by omega⟩
  have hpushed := ha.pushes P phold w d (n := n + 1) (by omega)
  have hno := pushes_of_no_pass (P := P) (phold := phold) (w := w) (x := (a, d)) (n := n)
    (by dsimp only; omega)
  have hpass : (a.pend + n) + 1 = a.len / 2 := h
  rw [pushes_succ, hno, anPush_of_pass hpass] at hpushed ⊢
  exact ⟨_, _, _, fresh_of_ringStored hpushed.len_eq hpushed.wr_eq hpushed.ring hhi ha.wr_lt h, rfl⟩

end Sys2Proof.Machine
end

section
open Sys2Proof Sys2Proof.Machine

/-- Settles O33: the one pass reads the ring buffer, and pushes are run one after the other. -/
theorem anWriteRunsThePass : Obligations.AnWriteRunsThePass := by
  unfold Obligations.AnWriteRunsThePass
  refine ⟨fun s c n hInv hi hc hn => ?pass,
    fun s u v c n m hnm hi hc hu hvi hvc han hdraws hph hword => ?split⟩
  case pass =>
    intro h line X
    obtain ⟨-, hhi⟩ := hInv.an_ok.half_bounds
    obtain ⟨ring, wr, pend, hfresh, hpush⟩ := pushes_pass (P := Config.params) (phold := s.ctl.anPhold)
      (w := s.audioWord Config.params c) (d := s.draws) hInv.an_ok hn
    have hline : (s.an.withRing ring wr pend).warped = line := by
      rw [Analyser.warped, hfresh, ← audioBlock_zero]
      rfl
    have hpeak : s.an.len / 2 < s.an.peak.length := by
      rw [hInv.an_ok.peak_length, Config.fftMax]; omega
    refine ⟨_, exec_of_inRange (i := .anWrite c n) hi rfl ⟨hc, show n ≤ 8192 by omega⟩, ?_⟩
    rw [effectOf, writeAnalyser_eq_pushes, hpush]
    refine ⟨rfl, rfl, congrArg (· ++ _) hline, fun k hk => ⟨?_, anPass_peak_getD hpeak hk⟩,
      fun k hk => anPass_getD_above hpeak hk, anPass_pmax (phold := s.ctl.anPhold)⟩
    have hpower := anPass_power_getD (P := Config.params) (phold := s.ctl.anPhold) (d := s.draws)
      (a := s.an.withRing ring wr pend) hk
    rw [hline] at hpower
    exact hpower
  case split =>
    have hcn : InRange s (.anWrite c n) := ⟨hc, show n ≤ 8192 by omega⟩
    obtain rfl : effectOf (.anWrite c n) s = u := by
      simpa [exec_of_inRange hi rfl hcn] using hu
    refine ⟨_, _, exec_of_inRange (i := .anWrite c m) hvi rfl ⟨hvc, show m ≤ 8192 by omega⟩,
      exec_of_inRange (i := .anWrite c (n + m)) hi rfl ⟨hc, hnm⟩, ?_⟩
    simp only [effectOf, writeAnalyser_eq_pushes, pushes_add, han, hdraws, hph, pushes_congr hword,
      and_self]
end

section
/-! Silence (45_analyser.md R305): on zeros of either sign every operation of a pass gives a zero, up to the
addition of AN_EPS. -/

namespace Sys2Proof.Flt

open Machine

variable {f : Fmt} {a b : Flt f}

theorem isZero_add (hf : IsFormat f) (ha : a.isZero = true) (hb : b.isZero = true) :
    (a.add b).isZero = true := by
  rw [add_of_toRat_add_eq_zero (isFinite_of_isZero hf ha) (isFinite_of_isZero hf hb)
    (by rw [toRat_of_isZero hf ha, toRat_of_isZero hf hb, add_zero])]
  rfl

@[simp] theorem isZero_neg (a : Flt f) : a.neg.isZero = a.isZero := by cases a <;> rfl

theorem isZero_sub (hf : IsFormat f) (ha : a.isZero = true) (hb : b.isZero = true) :
    (a.sub b).isZero = true := isZero_add hf ha (by rwa [isZero_neg])

theorem isZero_mul (hf : IsFormat f) (ha : a.isFinite = true) (hb : b.isZero = true) :
    (a.mul b).isZero = true := by
  rw [mul_of_isZero ha (isFinite_of_isZero hf hb) (.inr hb)]
  rfl

end Sys2Proof.Flt

namespace Sys2Proof.Machine

theorem FiniteF32.toF32_isFinite (c : FiniteF32) : c.toF32.isFinite = true :=
  Flt.isFinite_ofMag c.mag.isLt

theorem conv0_isFinite (P : Params) (j : Nat) : (conv0 P j).isFinite = true :=
  FiniteF32.toF32_isFinite _

theorem conv1_isFinite (P : Params) (j : Nat) : (conv1 P j).isFinite = true := by
  unfold conv1
  split
  · exact FiniteF32.toF32_isFinite _
  · rw [Flt.isFinite_neg]; exact FiniteF32.toF32_isFinite _

theorem IsZeroBin.add {x y : C32} (hx : IsZeroBin x) (hy : IsZeroBin y) : IsZeroBin (x.add y) :=
  ⟨Flt.isZero_add isFormat_b32 hx.1 hy.1, Flt.isZero_add isFormat_b32 hx.2 hy.2⟩

theorem IsZeroBin.smul {r : F32} {y : C32} (hr : r.isFinite = true) (hy : IsZeroBin y) :
    IsZeroBin (Cplx.smul r y) :=
  ⟨Flt.isZero_mul isFormat_b32 hr hy.1, Flt.isZero_mul isFormat_b32 hr hy.2⟩

theorem IsZeroBin.conj {x : C32} (hx : IsZeroBin x) : IsZeroBin x.conj :=
  ⟨hx.1, (Flt.isZero_neg _).trans hx.2⟩

theorem IsZeroBin.normSq {x : C32} (hx : IsZeroBin x) : x.normSq.isZero = true :=
  have hsq : ∀ {v : F32}, v.isZero = true → (v.mul v).isZero = true := fun h =>
    Flt.isZero_mul isFormat_b32 (Flt.isFinite_of_isZero isFormat_b32 h) h
  Flt.isZero_add isFormat_b32 (hsq hx.1) (hsq hx.2)

section
variable {X : List C32} (hX : ∀ b ∈ X, IsZeroBin b)
include hX

theorem isZeroBin_getD (k : Nat) : IsZeroBin (X.getD k Cplx.zero) := getD_of_forall hX ⟨rfl, rfl⟩ k

theorem isZeroBin_extendAt (h : Nat) (i : Int) : IsZeroBin (extendAt X h i) := by
  unfold extendAt
  split
  · exact (isZeroBin_getD hX _).conj
  · split
    · exact isZeroBin_getD hX _
    · exact (isZeroBin_getD hX _).conj

theorem isZeroBin_convSum {tap : Nat → F32} (htap : ∀ j, (tap j).isFinite = true) (n h : Nat)
    (first : Int) : IsZeroBin (convSum tap n X h first) :=
  foldl_rel (R := fun x y : C32 => IsZeroBin x → IsZeroBin y) (fun _ => id) (fun _ _ _ g f => f ∘ g) _
    (fun _ j _ hc => hc.add ((isZeroBin_extendAt hX h _).smul (htap j))) Cplx.zero ⟨rfl, rfl⟩

theorem isZero_binPower (P : Params) (h k : Nat) : (binPower P X h k).isZero = true :=
  Flt.isZero_add isFormat_b32 (isZeroBin_convSum hX (conv0_isFinite P) 9 h _).normSq
    (isZeroBin_convSum hX (conv1_isFinite P) 8 h _).normSq

end

section
variable {w : F32} (hw : w.isFinite = true)
include hw

theorem warpStages_isZero {ys : List F32} : ∀ {old new : F32}, old.isZero = true → new.isZero = true →
    (∀ y ∈ ys, y.isZero = true) → ∀ y ∈ warpStages w old new ys, y.isZero = true := by
  induction ys with
  | nil => exact fun _ _ _ _ hy => nomatch hy
  | cons y ys ih =>
    intro old new hold hnew hys
    obtain ⟨hy, hys⟩ := List.forall_mem_cons.1 hys
    have hy1 : (old.add (w.mul (new.sub y))).isZero = true :=
      Flt.isZero_add isFormat_b32 hold
        (Flt.isZero_mul isFormat_b32 hw (Flt.isZero_sub isFormat_b32 hnew hy))
    exact List.forall_mem_cons.2 ⟨hy1, ih hy hy1 hys⟩

theorem warpStep_isZero {line : List F32} {x : F32} (hx : x.isZero = true)
    (hline : ∀ y ∈ line, y.isZero = true) : ∀ y ∈ warpStep w line x, y.isZero = true := by
  cases line with
  | nil => exact nofun
  | cons y ys =>
    obtain ⟨hy, hys⟩ := List.forall_mem_cons.1 hline
    exact List.forall_mem_cons.2 ⟨hx, warpStages_isZero hw hy hx hys⟩

/-- A zero line that is fed zeros stays zero. -/
theorem foldl_warpStep_isZero {samples line : List F32} (hs : ∀ x ∈ samples, x.isZero = true)
    (hline : ∀ y ∈ line, y.isZero = true) :
    ∀ y ∈ samples.foldl (warpStep w) line, y.isZero = true :=
  foldl_rel (R := fun l m : List F32 => (∀ y ∈ l, y.isZero = true) → ∀ y ∈ m, y.isZero = true)
    (fun _ => id) (fun _ _ _ g f => f ∘ g) samples (fun _ _ hx => warpStep_isZero hw (hs _ hx)) line hline

end

theorem zero_add_anEps : ∀ s, (Flt.zero s).add Const.anEps = (Const.anEps : F32) := by decide

theorem anEps_isNan : (Const.anEps : F32).isNan = false := by decide

/-- A zero power and a zero bin give the epsilon floor (45_analyser.md R293, R305). -/
theorem powerUpdate_of_isZero {asm p e : F32} (hasm : asm.isFinite = true) (hp : p.isZero = true)
    (he : e.isZero = true) : powerUpdate asm p e = Const.anEps := by
  have hz : (p.add (asm.mul (e.sub p))).isZero = true :=
    Flt.isZero_add isFormat_b32 hp
      (Flt.isZero_mul isFormat_b32 hasm (Flt.isZero_sub isFormat_b32 he hp))
  rw [powerUpdate, Flt.eq_zero_of_isZero hz, zero_add_anEps]

/-- The maximum of a trace of one positive value is that value. -/
theorem traceMax_of_forall {v : F32} (hv : v.gt Const.zero = true) {trace : List Word} (hne : trace ≠ [])
    (h : ∀ p ∈ trace, F32.ofWord p = v) : traceMax trace = v := by
  cases trace with
  | nil => exact absurd rfl hne
  | cons p ps =>
    obtain ⟨hp, hps⟩ := List.forall_mem_cons.1 h
    rw [traceMax, List.foldl_cons, hp, if_pos hv]
    exact foldl_fixed fun q hq => by rw [hps q hq, ite_self]

/-- A word that reads as AN_EPS is its pattern, which no drawn NaN changes. -/
theorem eq_anEps_word {w : Word} (h : F32.ofWord w = Const.anEps) :
    w = (Const.anEps : F32).toWord 0 := by
  rw [← h, F32.toWord_ofWord (h ▸ anEps_isNan)]

/-- The first entries of a trace, none of them beyond its end. -/
theorem exists_getD_of_mem_take {l : List Word} {n : Nat} {p : Word} (h : p ∈ l.take n) :
    ∃ k, k < n ∧ l.getD k 0 = p := by
  obtain ⟨k, hk, rfl⟩ := List.mem_iff_getElem.1 h
  obtain ⟨hkn, hkl⟩ := lt_min_iff.1 (List.length_take ▸ hk)
  exact ⟨k, hkn, by rw [List.getD_eq_getElem _ _ hkl, List.getElem_take]⟩

/-- PMAX takes the floor when the first entries of the trace are the floor (45_analyser.md R295, R305). -/
theorem pmaxUpdate_of_floor {power : List Word} {h : Nat}
    (hfloor : ∀ k, k ≤ h → F32.ofWord (power.getD k 0) = Const.anEps) :
    pmaxUpdate (F32.ofWord 0) (power.take (h + 1)) = Const.anEps := by
  have hne : power.take (h + 1) ≠ [] := by
    intro hnil
    have h0 := hfloor 0 (Nat.zero_le h)
    rw [List.take_eq_nil_iff.1 hnil |>.resolve_left (Nat.succ_ne_zero h)] at h0
    exact absurd h0 (by decide)
  have hmax : traceMax (power.take (h + 1)) = Const.anEps :=
    traceMax_of_forall (by decide) hne fun p hp => by
      obtain ⟨k, hk, rfl⟩ := exists_getD_of_mem_take hp
      exact hfloor k (Nat.le_of_lt_succ hk)
  rw [pmaxUpdate, hmax, if_pos (by decide)]

theorem Analyser.Ok.wfact_isFinite {a : Analyser} (h : a.Ok) : (F32.ofWord a.wfact).isFinite = true :=
  (Flt.isFinite_and_le_of_abs_le isFormat_b32 (by decide) h.wfact_le).1

end Sys2Proof.Machine
end

section
open Sys2Proof Sys2Proof.Machine

/-- Settles O34: the pass of O33, on zeros. -/
theorem silenceGivesTheEpsilonFloor : Obligations.SilenceGivesTheEpsilonFloor := by
  unfold Obligations.SilenceGivesTheEpsilonFloor
  intro s c hInv hi hc hpend hasm hwarp hpower hpmax hsilent
  obtain ⟨t, ht, hvalid, -, hwarpst, htraces, -, hnewmax⟩ :=
    anWriteRunsThePass.1 s c (s.an.len / 2) hInv hi hc (by rw [hpend, Nat.zero_add])
  have hwarp0 : ∀ x ∈ s.an.warpst, x.isZero = true := fun x hx => by rw [hwarp x hx]; rfl
  have hsamples : ∀ x ∈ s.an.pending ++ s.audioBlock Config.params c 0 (s.an.len / 2),
      x.isZero = true := by
    rw [Analyser.pending, hpend, audioBlock_zero]
    intro x hx
    obtain ⟨j, hj, rfl⟩ := List.mem_map.1 hx
    exact hsilent j (List.mem_range.1 hj)
  have hline := foldl_warpStep_isZero (w := (F32.ofWord s.an.wfact).neg)
    (by rw [Flt.isFinite_neg]; exact hInv.an_ok.wfact_isFinite) hsamples
    (line := s.an.warpst.take s.an.len) fun x hx => hwarp0 x (List.mem_of_mem_take hx)
  have hfloor : ∀ k, k ≤ s.an.len / 2 → F32.ofWord (t.an.power.getD k 0) = Const.anEps := by
    intro k hk
    rw [(htraces k hk).1, getD_of_forall hpower rfl k]
    exact powerUpdate_of_isZero hasm (by decide) (isZero_binPower (fftR2C_isZero _ hline) _ _ k)
  refine ⟨t, ht, hvalid, fun x hx => ?_, fun k hk => eq_anEps_word (hfloor k hk), eq_anEps_word ?_⟩
  · rw [hwarpst] at hx
    exact (List.mem_append.1 hx).elim (hline x) fun h => hwarp0 x (List.mem_of_mem_drop h)
  · rw [hnewmax, hpmax, pmaxUpdate_of_floor hfloor]
end

section
/-! The control commands (46_control.md): the words of `nop`'s opcode that are no `nop`, when `init` succeeds,
and what it gives every record. -/

namespace Sys2Proof.Machine

theorem decode_nop_reserved {w : Word} (hopc : w.opc = 0) (hne : w ≠ 0x00000000) :
    decode w = .error .reservedField := by
  have hfields : w.sel = 0 → w.imm ≠ 0 := fun hsel himm =>
    hne (Word.eq_iff_fields.2 ⟨hopc, hsel, himm⟩)
  simpa [decode, hopc, reserved] using hfields

/-- `init` with operands in range has its effect, before INIT_DONE is set as well (R321). -/
theorem exec_init_of_inRange {nch : Nat} {s : State} (h : InRange s (.init nch)) :
    exec (.init nch) s = .next (initialise Config.params nch s) := by
  have hnone : errorOf (.init nch) s = none := if_pos h
  rw [exec_eq, hnone, runCommand_ok, effectOf]

theorem toRat_rateMin : Const.rateMin.toRat = 8000 := by
  have h : Const.rateMin = .num false ⟨0x45FA0000, by decide⟩ := by decide
  rw [h, Flt.toRat_num_eq (by decide), show Flt.sig _ _ = 0xFA0000 by decide,
    show Flt.expo _ _ = -11 by decide]
  norm_num

theorem toRat_rateMax : Const.rateMax.toRat = 384000 := by
  have h : Const.rateMax = .num false ⟨0x48BB8000, by decide⟩ := by decide
  rw [h, Flt.toRat_num_eq (by decide), show Flt.sig _ _ = 0xBB8000 by decide,
    show Flt.expo _ _ = -5 by decide]
  norm_num

/-- RATE_OK (R322) on the exact values. -/
theorem rateOk_iff {F : F32} : rateOk F = true ↔
    F.isFinite = true ∧ 8000 ≤ F.toRat ∧ F.toRat ≤ 384000 := by
  have hmin : Const.rateMin.isFinite = true := by decide
  have hmax : Const.rateMax.isFinite = true := by decide
  rw [rateOk, Bool.and_eq_true, Bool.and_eq_true, and_assoc, ← toRat_rateMin, ← toRat_rateMax]
  refine and_congr_right fun hF => and_congr ?_ ?_
  · exact ⟨Flt.toRat_le_of_le hmin hF, Flt.le_of_toRat_le hmin hF⟩
  · exact ⟨Flt.toRat_le_of_le hF hmax, Flt.le_of_toRat_le hF hmax⟩

/-- CH_INIT gives each band its BAND_INIT (R323). -/
theorem Chan.band_initial (P : Params) (r : Controls) (rate : F32) {i : Nat} (hi : i < Config.nBands) :
    (Chan.initial P r rate).band i = Band.initial P (r.band i) rate := by
  simp [Chan.band, Chan.initial, hi]

/-- BAND_INIT (41_band.md R179): the targets, recorded as used, their coefficients and zero registers. -/
theorem Band.initial_spec (P : Params) (r : BandControls) (rate : F32) :
    let B := Band.initial P r rate
    (B.fr, B.bw, B.gl) = bandTargets P r rate ∧ (B.frU, B.bwU, B.glU) = (B.fr, B.bw, B.gl) ∧
      B.coeffs P = B ∧ B.z0 = f32Zero ∧ B.z1 = f32Zero ∧ B.z2 = f32Zero ∧ B.z3 = f32Zero :=
  ⟨rfl, rfl, rfl, rfl, rfl, rfl, rfl⟩

/-- SHELF_INIT (40_shelf.md R155): the targets, recorded as used, their coefficients and zero registers. -/
theorem Shelf.initial_spec (P : Params) (which : ShelfKind) (r : ShelfControls) (rate : F32) :
    let S := Shelf.initial P which r rate
    (S.fr, S.qv, S.gdb) = shelfTargets r rate ∧ (S.frU, S.qvU, S.gdbU) = (S.fr, S.qv, S.gdb) ∧
      S.coeffs P which = S ∧ S.z1 = f64Zero ∧ S.z2 = f64Zero :=
  ⟨rfl, rfl, rfl, rfl, rfl⟩

/-- HPLP_INIT (42_hplp.md R209) on the patterns: p is 1.0, all else +0.0. -/
theorem Hplp.initial_eq : Hplp.initial = ⟨f32One, f32Zero, f32Zero, f32Zero, f32Zero⟩ := by decide

/-- AN_INIT (45_analyser.md R306), field by field. -/
theorem Analyser.initial_eq (P : Params) (rate : F32) (a : Analyser) : a.initial P rate = { a with
    asm := asmOf P a.len rate (F32.ofWord a.speed)
    ipbuf := List.replicate 8192 0, wr := 0, pend := 0
    warpst := List.replicate 8192 f32Zero
    power := List.replicate 4097 0, peak := List.replicate 4097 0, pmax := 0, valid := false } := by
  have hzero : (Const.zero : F32) = f32Zero := by decide
  simp only [Analyser.initial, Analyser.clear, Analyser.setAsm, zeroTrace, Config.ipSize, Config.fftMax,
    Nat.reduceDiv, Nat.reduceAdd, hzero]

end Sys2Proof.Machine
end

section
open Sys2Proof Sys2Proof.Machine

/-- Settles O22: the effect is `initialise`, which is read off record by record. -/
theorem initSetsTheMachine : Obligations.InitSetsTheMachine := by
  unfold Obligations.InitSetsTheMachine
  intro s nch h1 h2 hr
  refine ⟨_, exec_init_of_inRange ⟨h1, h2, hr⟩, rfl, ?_, rfl, fun x hx => ?_,
    Analyser.initial_eq Config.params s.arg0F s.an⟩
  · exact Nat.mod_eq_of_lt (Nat.lt_succ_of_le h2)
  · obtain rfl : x = Chan.initial Config.params s.ctl s.arg0F := List.eq_of_mem_replicate hx
    have hone : (Const.one : F32) = f32One := by decide
    refine ⟨rfl, hone, Hplp.initial_eq, Hplp.initial_eq,
      (Chan.initial_ok Config.params s.ctl s.arg0F).bands_length, fun i hi => ?_, ?_⟩
    · rw [Chan.band_initial Config.params s.ctl s.arg0F hi]
      exact Band.initial_spec Config.params (s.ctl.band i) s.arg0F
    · rintro S which r (h | h) <;> cases h
      · exact Shelf.initial_spec Config.params .low s.ctl.ls s.arg0F
      · exact Shelf.initial_spec Config.params .high s.ctl.hs s.arg0F

/-- Settles O23: RATE_OK on the exact values decides between the effect and BAD_OPERAND. -/
theorem initAcceptsExactlyTheValidRates : Obligations.InitAcceptsExactlyTheValidRates := by
  unfold Obligations.InitAcceptsExactlyTheValidRates
  intro s nch h1 h2
  rw [← rateOk_iff]
  refine ⟨fun hr => ⟨_, exec_init_of_inRange ⟨h1, h2, hr⟩, rfl, rfl⟩, fun hr => ?_⟩
  exact exec_of_errorOf (errorOf_badOperand (.inr rfl) fun ⟨_, _, hok⟩ => hr hok)

/-- Settles O21: the word by its fields, and the command by its meaning. -/
theorem nopDoesNothing : Obligations.NopDoesNothing := by
  unfold Obligations.NopDoesNothing
  exact ⟨rfl, rfl, fun _ => rfl, fun w s hopc hne =>
    execute_of_decode_error (decode_nop_reserved hopc hne) s⟩
end

section
/-! The error record, ERR and CAUSE (60_exceptions.md R341 to R347): the host's write to STATUS, what a
command and a step do to the record, and that both always complete. -/

namespace Sys2Proof.Machine

theorem writeStatus_of_set {v : Word} (h : v.getLsbD 0 = true) (s : State) :
    s.writeStatus v = s.clearError := if_pos h

theorem writeStatus_of_clear {v : Word} (h : v.getLsbD 0 = false) (s : State) :
    s.writeStatus v = s := if_neg (Bool.eq_false_iff.1 h)

/-- Clearing an empty error record changes nothing. -/
theorem clearError_of_no_error {s : State} (he : s.err = false) (hc : s.cause = .none) :
    s.clearError = s := by
  rw [State.clearError, ← he, ← hc]

/-- STATUS is mapped and writable, so a write to it always reaches the flags. -/
theorem step_write_status {s : State} {v : Word} {rest : List BusAccess}
    (hb : s.bus = .write statusAddr v :: rest) :
    step s = .next (State.writeStatus v { s with bus := rest }) :=
  step_write (t := .iface .status) hb trivial (by decide) rfl nofun

/-- The error record stays as it is, or records an error. -/
def ErrorStaysOrIsRecorded (s t : State) : Prop :=
  (t.err = s.err ∧ t.cause = s.cause) ∨ (t.err = true ∧ t.cause ≠ .none)

theorem ErrorStaysOrIsRecorded.sticky {s t : State} (h : ErrorStaysOrIsRecorded s t)
    (hs : s.err = true) : t.err = true ∧ (t.cause = s.cause ∨ t.cause ≠ .none) := by
  rcases h with ⟨he, hc⟩ | ⟨he, hc⟩
  · exact ⟨he.trans hs, .inl hc⟩
  · exact ⟨he, .inr hc⟩

theorem effectOf_error (i : Instr) (s : State) :
    (effectOf i s).err = s.err ∧ (effectOf i s).cause = s.cause := by
  obtain ⟨-, -, -, -, he, hc⟩ := effectOf_host i s
  exact ⟨he, hc⟩

/-- No command clears the error record (R344). -/
theorem exec_error {i : Instr} {s t : State} (h : exec i s = .next t) :
    ErrorStaysOrIsRecorded s t := by
  rcases exec_next h with ⟨c, hc, rfl⟩ | ⟨-, rfl⟩
  · exact .inr ⟨rfl, errorOf_ne_none hc⟩
  · exact .inl (effectOf_error i s)

/-- A stored word leaves the error record alone, unless it is a 1 in bit 0 of STATUS. -/
theorem writeTarget_error (s : State) (v : Word) (t : Target) :
    ((s.writeTarget v t).err = s.err ∧ (s.writeTarget v t).cause = s.cause) ∨
      (t = .iface .status ∧ v.getLsbD 0 = true) := by
  cases t with
  | iface r =>
    cases r with
    | status =>
      cases h : v.getLsbD 0 with
      | false => exact .inl (by rw [State.writeTarget, writeStatus_of_clear h]; exact ⟨rfl, rfl⟩)
      | true => exact .inr ⟨rfl, rfl⟩
    | _ => exact .inl ⟨rfl, rfl⟩
  | _ => exact .inl ⟨rfl, rfl⟩

theorem eq_statusAddr_of_locate {a : Word} (h : locate a = some (.iface .status)) :
    a = statusAddr := by
  obtain ⟨-, ha⟩ := of_locate h
  exact BitVec.eq_of_toNat_eq ha.symm

/-- Only the host's write of 1 to bit 0 of STATUS clears the error record (R343, R344). -/
theorem step_error {s t : State} (h : step s = .next t) : ErrorStaysOrIsRecorded s t ∨
    ∃ v rest, s.bus = .write statusAddr v :: rest ∧ v.getLsbD 0 = true := by
  rcases step_cases h with ⟨-, rfl⟩ | ⟨a, rest, -, rfl⟩ | ⟨a, v, rest, -, -, -, rfl⟩ |
    ⟨a, v, rest, i, -, -, -, he⟩ | ⟨a, v, rest, hb, -, rfl⟩
  case inl => exact .inl (.inl ⟨rfl, rfl⟩)
  case inr.inl =>
    rcases busRead_cases Config.params a { s with bus := rest } with ⟨-, hr⟩ | ⟨u, -, hr⟩ <;> rw [hr]
    · exact .inl (.inr ⟨rfl, nofun⟩)
    · exact .inl (.inl ⟨rfl, rfl⟩)
  case inr.inr.inl => exact .inl (.inr ⟨rfl, nofun⟩)
  case inr.inr.inr.inl => exact .inl (exec_error (s := { s with bus := rest }) he)
  case inr.inr.inr.inr =>
    rcases busWrite_cases a v { s with bus := rest } with hw | ⟨u, hu, -, hw⟩ <;> rw [hw]
    · exact .inl (.inr ⟨rfl, nofun⟩)
    · rcases writeTarget_error { s with bus := rest } v u with hsame | ⟨rfl, hv⟩
      · exact .inl (.inl hsame)
      · exact .inr ⟨v, rest, eq_statusAddr_of_locate hu ▸ hb, hv⟩

/-- `exec_of_inRange` for every command: `nop` and `init` need no INIT_DONE. -/
theorem exec_of_ready_of_inRange {i : Instr} {s : State}
    (hs : s.initDone = true ∨ runsBeforeInit i = true) (hr : InRange s i) :
    exec i s = .next (effectOf i s) := by
  cases hi : runsBeforeInit i with
  | false => exact exec_of_inRange (hs.resolve_right (by simp [hi])) hi hr
  | true =>
    cases i with
    | nop => rfl
    | init nch => exact exec_init_of_inRange hr
    | _ => cases hi

theorem exec_completes (i : Instr) (s : State) : ∃ t, exec i s = .next t := by
  rw [exec_eq]
  exact runCommand_completes _ _ s

/-- A write to CMD completes, whether its word is a command or not. -/
theorem execute_completes (w : Word) (s : State) : ∃ t, execute w s = .next t := by
  cases hd : decode w with
  | ok i => rw [execute, hd]; exact exec_completes i s
  | error e => exact ⟨_, execute_of_decode_error hd s⟩

end Sys2Proof.Machine
end

section
open Sys2Proof Sys2Proof.Machine

/-- Settles O14: the write reaches the flags, and a command only keeps the error record or adds to it. -/
theorem statusWriteClearsTheError : Obligations.StatusWriteClearsTheError := by
  unfold Obligations.StatusWriteClearsTheError
  refine ⟨fun s v rest hb => ?_, fun i s t h hs => ((exec_error h).sticky hs).1⟩
  rw [step_write_status hb]
  refine ⟨fun hv => ?_, fun hv => ?_, fun hcons he => ?_⟩
  · rw [writeStatus_of_set hv]
    rfl
  · rw [writeStatus_of_clear hv]
  · cases hv : v.getLsbD 0 with
    | false => rw [writeStatus_of_clear hv]
    | true =>
      rw [writeStatus_of_set hv,
        clearError_of_no_error (s := { s with bus := rest }) he (hcons.cause_iff.1 he)]

/-- Settles O15: the one step that clears the error record is the one the statement excludes. -/
theorem errIsSticky : Obligations.ErrIsSticky := by
  unfold Obligations.ErrIsSticky
  intro s t h hs hno
  rcases step_error h with hrec | ⟨v, rest, hb, hv⟩
  · exact hrec.sticky hs
  · exact absurd ((hno v rest hb).symm.trans hv) Bool.false_ne_true

/-- Settles O17: the command has its effect, and no effect writes the error record. -/
theorem successKeepsErrAndCause : Obligations.SuccessKeepsErrAndCause := by
  unfold Obligations.SuccessKeepsErrAndCause
  exact fun i s hs hr => ⟨_, exec_of_ready_of_inRange hs hr, effectOf_error i s⟩

/-- Settles O8, access by access. -/
theorem stepNeverStops : Obligations.StepNeverStops := by
  unfold Obligations.StepNeverStops
  intro s
  cases hb : s.bus with
  | nil => exact ⟨s, by rw [step, hb]⟩
  | cons access rest =>
    cases access with
    | read a => exact ⟨_, by rw [step, hb]⟩
    | write a v =>
      cases hc : isCmd a with
      | false => exact ⟨_, step_write_of_not_isCmd hb hc⟩
      | true =>
        rw [step, hb]
        simp only [hc, if_true]
        exact execute_completes v _
end
